-- ==== Sys2Proof/Word.lean ====
section
/-! DEFINITION. The word types of YACE CORE: what the spec treats as bits (spec/00_scope.md R7, R9),
and the index of a general register. -/

namespace Sys2Proof

/-- A byte: a general register, a timer, a memory location, an immediate `nn` (R7, R60, R91). -/
abbrev Byte := BitVec 8

/-- A 12-bit address: the program counter, a stack entry, an immediate `nnn` (R25, R27, R91). -/
abbrev Addr := BitVec 12

/-- A 16-bit word: an instruction, the address register `I` (R24, R90). -/
abbrev Word := BitVec 16

/-- The index of a general register: every 4-bit value names a register (R21, R92). -/
abbrev RegIdx := Fin 16

/-- The index of the flags register `VF` (R22). -/
abbrev vF : RegIdx := 15

end Sys2Proof
end

