-- ==== Sys2Proof/Syntax.lean ====
section
/-! DEFINITION. The instruction set: one constructor per row of spec/opcode_table.json, in the table's
order. A constructor holds the operand fields of spec/30_encoding.md R91 that its row examines; the bits
the decoder ignores (R100) are no operands. -/

namespace Sys2Proof

inductive Instr where
  /-- `CLS` (R261) -/
  | cls
  /-- `RET` (R160) -/
  | ret
  /-- `SCD n` (R262) -/
  | scd (n : BitVec 4)
  /-- `SCR` (R263) -/
  | scr
  /-- `SCL` (R264) -/
  | scl
  /-- `LOW` (R265) -/
  | low
  /-- `HIGH` (R266) -/
  | high
  /-- `JP nnn` (R161) -/
  | jp (nnn : Addr)
  /-- `CALL nnn` (R162) -/
  | call (nnn : Addr)
  /-- `SE Vx, nn` (R163) -/
  | seImm (x : RegIdx) (nn : Byte)
  /-- `SNE Vx, nn` (R164) -/
  | sneImm (x : RegIdx) (nn : Byte)
  /-- `SE Vx, Vy` (R165) -/
  | seReg (x y : RegIdx)
  /-- `LD Vx, nn` (R190) -/
  | ldImm (x : RegIdx) (nn : Byte)
  /-- `ADD Vx, nn` (R191) -/
  | addImm (x : RegIdx) (nn : Byte)
  /-- `LD Vx, Vy` (R192) -/
  | ldReg (x y : RegIdx)
  /-- `OR Vx, Vy` (R193) -/
  | orReg (x y : RegIdx)
  /-- `AND Vx, Vy` (R194) -/
  | andReg (x y : RegIdx)
  /-- `XOR Vx, Vy` (R195) -/
  | xorReg (x y : RegIdx)
  /-- `ADD Vx, Vy` (R196) -/
  | addReg (x y : RegIdx)
  /-- `SUB Vx, Vy` (R197) -/
  | sub (x y : RegIdx)
  /-- `SHR Vx` (R198) -/
  | shr (x : RegIdx)
  /-- `SUBN Vx, Vy` (R199) -/
  | subn (x y : RegIdx)
  /-- `SHL Vx` (R200) -/
  | shl (x : RegIdx)
  /-- `SNE Vx, Vy` (R166) -/
  | sneReg (x y : RegIdx)
  /-- `LD I, nnn` (R230) -/
  | ldI (nnn : Addr)
  /-- `JP V0, nnn` (R167) -/
  | jpV0 (nnn : Addr)
  /-- `RND Vx, nn` (R201) -/
  | rnd (x : RegIdx) (nn : Byte)
  /-- `DRW Vx, Vy, n` (R267) -/
  | drw (x y : RegIdx) (n : BitVec 4)
  /-- `SKP Vx` (R300) -/
  | skp (x : RegIdx)
  /-- `SKNP Vx` (R301) -/
  | sknp (x : RegIdx)
  /-- `LD Vx, DT` (R302) -/
  | ldVxDt (x : RegIdx)
  /-- `LD Vx, K` (R303) -/
  | ldVxK (x : RegIdx)
  /-- `LD DT, Vx` (R304) -/
  | ldDtVx (x : RegIdx)
  /-- `LD ST, Vx` (R305) -/
  | ldStVx (x : RegIdx)
  /-- `ADD I, Vx` (R231) -/
  | addI (x : RegIdx)
  /-- `LD F, Vx` (R232) -/
  | ldF (x : RegIdx)
  /-- `LD HF, Vx` (R233) -/
  | ldHf (x : RegIdx)
  /-- `LD B, Vx` (R234) -/
  | ldB (x : RegIdx)
  /-- `LD [I], Vx` (R235) -/
  | stRegs (x : RegIdx)
  /-- `LD Vx, [I]` (R236) -/
  | ldRegs (x : RegIdx)
  /-- the table's `(unrecognized)` row: a word that selects no other row, kept whole (R98, R331) -/
  | unrecognized (w : Word)
deriving DecidableEq, Repr

end Sys2Proof
end

