-- ==== Sys2Proof/WellFormed.lean ====
section
/-! DEFINITION. Which terms of `Instr` stand for an instruction. The operand types hold exactly the values
the encoding admits (spec/30_encoding.md R92: no register encoding is reserved), so the one check is that
an `unrecognized` word is a word of R98's list. -/

namespace Sys2Proof

/-- R98's list of the unrecognized words, family by family, from the word's own bits. -/
def unrecognizedWord (w : Word) : Bool :=
  let family := w.extractLsb' 12 4
  let nn := w.extractLsb' 0 8
  let n := w.extractLsb' 0 4
  if family = 0x0#4 then
    !([0xE0#8, 0xEE#8, 0xFB#8, 0xFC#8, 0xFE#8, 0xFF#8].contains nn) && w.extractLsb' 4 4 != 0xC#4
  else if family = 0x8#4 then
    [0x8#4, 0x9#4, 0xA#4, 0xB#4, 0xC#4, 0xD#4, 0xF#4].contains n
  else if family = 0xE#4 then
    !([0x9E#8, 0xA1#8].contains nn)
  else if family = 0xF#4 then
    !([0x07#8, 0x0A#8, 0x15#8, 0x18#8, 0x1E#8, 0x29#8, 0x30#8, 0x33#8, 0x55#8, 0x65#8].contains nn)
  else
    false

/-- A term is well formed when it stands for some instruction word. -/
def Instr.wf : Instr → Bool
  | .unrecognized w => unrecognizedWord w
  | .cls => true
  | .ret => true
  | .scd _ => true
  | .scr => true
  | .scl => true
  | .low => true
  | .high => true
  | .jp _ => true
  | .call _ => true
  | .seImm _ _ => true
  | .sneImm _ _ => true
  | .seReg _ _ => true
  | .ldImm _ _ => true
  | .addImm _ _ => true
  | .ldReg _ _ => true
  | .orReg _ _ => true
  | .andReg _ _ => true
  | .xorReg _ _ => true
  | .addReg _ _ => true
  | .sub _ _ => true
  | .shr _ => true
  | .subn _ _ => true
  | .shl _ => true
  | .sneReg _ _ => true
  | .ldI _ => true
  | .jpV0 _ => true
  | .rnd _ _ => true
  | .drw _ _ _ => true
  | .skp _ => true
  | .sknp _ => true
  | .ldVxDt _ => true
  | .ldVxK _ => true
  | .ldDtVx _ => true
  | .ldStVx _ => true
  | .addI _ => true
  | .ldF _ => true
  | .ldHf _ => true
  | .ldB _ => true
  | .stRegs _ => true
  | .ldRegs _ => true

end Sys2Proof
end

