-- ==== Sys2Proof/Decode.lean ====
section
/-! DEFINITION. From bytes to an instruction (spec/30_encoding.md): the fields (R91), the two-level dispatch
(R93 to R96), the decoder, total on any bytes; then the encoder, the opcode map R97 as data, and the bits
each instruction examines (R100). -/

namespace Sys2Proof

/-! ### Fields (R91) -/

/-- `f = op[15:12]`, the opcode family. -/
def opF (w : Word) : BitVec 4 := w.extractLsb' 12 4

/-- `x = op[11:8]`, the first register index. -/
def opX (w : Word) : RegIdx := (w.extractLsb' 8 4).toFin

/-- `y = op[7:4]`, the second register index. -/
def opY (w : Word) : RegIdx := (w.extractLsb' 4 4).toFin

/-- `n = op[3:0]`, the count or sub-opcode. -/
def opN (w : Word) : BitVec 4 := w.extractLsb' 0 4

/-- `nn = op[7:0]`, the 8-bit immediate or sub-opcode. -/
def opNN (w : Word) : Byte := w.extractLsb' 0 8

/-- `nnn = op[11:0]`, the 12-bit address. -/
def opNNN (w : Word) : Addr := w.extractLsb' 0 12

/-! ### Dispatch (R93 to R96, R98) -/

/-- Family 0: the low byte selects, `Cn` is `SCD n`, bits 11-8 are not examined (R94, R96). -/
def decodeFamily0 (w : Word) : Instr :=
  if w.extractLsb' 4 4 = 0xC#4 then .scd (opN w)
  else match opNN w with
    | 0xE0#8 => .cls
    | 0xEE#8 => .ret
    | 0xFB#8 => .scr
    | 0xFC#8 => .scl
    | 0xFE#8 => .low
    | 0xFF#8 => .high
    | _ => .unrecognized w

/-- Family 8: the low nibble selects (R94). -/
def decodeFamily8 (w : Word) : Instr :=
  match opN w with
  | 0x0#4 => .ldReg (opX w) (opY w)
  | 0x1#4 => .orReg (opX w) (opY w)
  | 0x2#4 => .andReg (opX w) (opY w)
  | 0x3#4 => .xorReg (opX w) (opY w)
  | 0x4#4 => .addReg (opX w) (opY w)
  | 0x5#4 => .sub (opX w) (opY w)
  | 0x6#4 => .shr (opX w)
  | 0x7#4 => .subn (opX w) (opY w)
  | 0xE#4 => .shl (opX w)
  | _ => .unrecognized w

/-- Family E: the low byte selects (R94). -/
def decodeFamilyE (w : Word) : Instr :=
  match opNN w with
  | 0x9E#8 => .skp (opX w)
  | 0xA1#8 => .sknp (opX w)
  | _ => .unrecognized w

/-- Family F: the low byte selects (R94). -/
def decodeFamilyF (w : Word) : Instr :=
  match opNN w with
  | 0x07#8 => .ldVxDt (opX w)
  | 0x0A#8 => .ldVxK (opX w)
  | 0x15#8 => .ldDtVx (opX w)
  | 0x18#8 => .ldStVx (opX w)
  | 0x1E#8 => .addI (opX w)
  | 0x29#8 => .ldF (opX w)
  | 0x30#8 => .ldHf (opX w)
  | 0x33#8 => .ldB (opX w)
  | 0x55#8 => .stRegs (opX w)
  | 0x65#8 => .ldRegs (opX w)
  | _ => .unrecognized w

/-- The first-level dispatch on the family (R93); families 1-7, 9 and A-D are decided by it alone (R95). -/
def decodeWord (w : Word) : Instr :=
  match opF w with
  | 0x0#4 => decodeFamily0 w
  | 0x1#4 => .jp (opNNN w)
  | 0x2#4 => .call (opNNN w)
  | 0x3#4 => .seImm (opX w) (opNN w)
  | 0x4#4 => .sneImm (opX w) (opNN w)
  | 0x5#4 => .seReg (opX w) (opY w)
  | 0x6#4 => .ldImm (opX w) (opNN w)
  | 0x7#4 => .addImm (opX w) (opNN w)
  | 0x8#4 => decodeFamily8 w
  | 0x9#4 => .sneReg (opX w) (opY w)
  | 0xA#4 => .ldI (opNNN w)
  | 0xB#4 => .jpV0 (opNNN w)
  | 0xC#4 => .rnd (opX w) (opNN w)
  | 0xD#4 => .drw (opX w) (opY w) (opN w)
  | 0xE#4 => decodeFamilyE w
  | _ => decodeFamilyF w

/-! ### Bytes (R63, R90) -/

/-- Why the decoder gives no instruction. The machine never meets this: a fetch always has two bytes. -/
inductive DecodeError where
  /-- fewer than the two bytes every instruction has (R90) -/
  | truncated
deriving DecidableEq, Repr

/-- The word of two bytes, big-endian: the byte at the lower address is bits 15-8 (R63). -/
def wordOfBytes (hi lo : Byte) : Word := hi ++ lo

/-- The two bytes of a word as memory holds them, the lower address first (R63). -/
def bytesOfWord (w : Word) : List Byte := [w.extractLsb' 8 8, w.extractLsb' 0 8]

/-- The instruction at the head of a list of bytes and the bytes after it. -/
def decode : List Byte → Except DecodeError (Instr × List Byte)
  | hi :: lo :: rest => .ok (decodeWord (wordOfBytes hi lo), rest)
  | _ => .error .truncated

/-- The instruction the decoder reads from an instruction whose bits are `w`, bit 0 the least significant bit
of its one 16-bit word; the bits above `nbits` are 0. -/
def decodeTableWord (nbits w : Nat) : Option Instr :=
  match decode (bytesOfWord (BitVec.ofNat 16 (w % 2 ^ nbits))) with
  | .ok (i, _) => some i
  | .error _ => none

/-! ### Encoder -/

/-- A register index as a 4-bit field. -/
def regField (x : RegIdx) : BitVec 4 := BitVec.ofNat 4 x.val

/-- The word of an instruction, from the patterns of R97; a bit its row does not examine is 0. -/
def encode : Instr → Word
  | .cls => 0x00E0#16
  | .ret => 0x00EE#16
  | .scd n => 0x00C#12 ++ n
  | .scr => 0x00FB#16
  | .scl => 0x00FC#16
  | .low => 0x00FE#16
  | .high => 0x00FF#16
  | .jp nnn => 0x1#4 ++ nnn
  | .call nnn => 0x2#4 ++ nnn
  | .seImm x nn => 0x3#4 ++ regField x ++ nn
  | .sneImm x nn => 0x4#4 ++ regField x ++ nn
  | .seReg x y => 0x5#4 ++ regField x ++ regField y ++ 0x0#4
  | .ldImm x nn => 0x6#4 ++ regField x ++ nn
  | .addImm x nn => 0x7#4 ++ regField x ++ nn
  | .ldReg x y => 0x8#4 ++ regField x ++ regField y ++ 0x0#4
  | .orReg x y => 0x8#4 ++ regField x ++ regField y ++ 0x1#4
  | .andReg x y => 0x8#4 ++ regField x ++ regField y ++ 0x2#4
  | .xorReg x y => 0x8#4 ++ regField x ++ regField y ++ 0x3#4
  | .addReg x y => 0x8#4 ++ regField x ++ regField y ++ 0x4#4
  | .sub x y => 0x8#4 ++ regField x ++ regField y ++ 0x5#4
  | .shr x => 0x8#4 ++ regField x ++ 0x06#8
  | .subn x y => 0x8#4 ++ regField x ++ regField y ++ 0x7#4
  | .shl x => 0x8#4 ++ regField x ++ 0x0E#8
  | .sneReg x y => 0x9#4 ++ regField x ++ regField y ++ 0x0#4
  | .ldI nnn => 0xA#4 ++ nnn
  | .jpV0 nnn => 0xB#4 ++ nnn
  | .rnd x nn => 0xC#4 ++ regField x ++ nn
  | .drw x y n => 0xD#4 ++ regField x ++ regField y ++ n
  | .skp x => 0xE#4 ++ regField x ++ 0x9E#8
  | .sknp x => 0xE#4 ++ regField x ++ 0xA1#8
  | .ldVxDt x => 0xF#4 ++ regField x ++ 0x07#8
  | .ldVxK x => 0xF#4 ++ regField x ++ 0x0A#8
  | .ldDtVx x => 0xF#4 ++ regField x ++ 0x15#8
  | .ldStVx x => 0xF#4 ++ regField x ++ 0x18#8
  | .addI x => 0xF#4 ++ regField x ++ 0x1E#8
  | .ldF x => 0xF#4 ++ regField x ++ 0x29#8
  | .ldHf x => 0xF#4 ++ regField x ++ 0x30#8
  | .ldB x => 0xF#4 ++ regField x ++ 0x33#8
  | .stRegs x => 0xF#4 ++ regField x ++ 0x55#8
  | .ldRegs x => 0xF#4 ++ regField x ++ 0x65#8
  | .unrecognized w => w

/-- The bytes of an instruction in memory order. -/
def encodeBytes (i : Instr) : List Byte := bytesOfWord (encode i)

/-! ### The opcode map as data (R97) and the bits examined (R100) -/

/-- One row of R97: a word `op` selects the row when `op &&& mask = pattern`, and stands for `build op`. -/
structure OpcodeRow where
  mask : Word
  pattern : Word
  build : Word → Instr

/-- Whether a word selects a row (R97). -/
def OpcodeRow.selects (row : OpcodeRow) (w : Word) : Bool := w &&& row.mask == row.pattern

/-- The rows of R97 for the grouped family 0. -/
def opcodeRows0 : List OpcodeRow :=
  [⟨0xF0FF, 0x00E0, fun _ => .cls⟩, ⟨0xF0FF, 0x00EE, fun _ => .ret⟩,
   ⟨0xF0F0, 0x00C0, fun w => .scd (opN w)⟩, ⟨0xF0FF, 0x00FB, fun _ => .scr⟩,
   ⟨0xF0FF, 0x00FC, fun _ => .scl⟩, ⟨0xF0FF, 0x00FE, fun _ => .low⟩,
   ⟨0xF0FF, 0x00FF, fun _ => .high⟩]

/-- The rows of R97 that the family alone selects. -/
def opcodeRowsPlain : List OpcodeRow :=
  [⟨0xF000, 0x1000, fun w => .jp (opNNN w)⟩, ⟨0xF000, 0x2000, fun w => .call (opNNN w)⟩,
   ⟨0xF000, 0x3000, fun w => .seImm (opX w) (opNN w)⟩,
   ⟨0xF000, 0x4000, fun w => .sneImm (opX w) (opNN w)⟩,
   ⟨0xF000, 0x5000, fun w => .seReg (opX w) (opY w)⟩,
   ⟨0xF000, 0x6000, fun w => .ldImm (opX w) (opNN w)⟩,
   ⟨0xF000, 0x7000, fun w => .addImm (opX w) (opNN w)⟩,
   ⟨0xF000, 0x9000, fun w => .sneReg (opX w) (opY w)⟩,
   ⟨0xF000, 0xA000, fun w => .ldI (opNNN w)⟩, ⟨0xF000, 0xB000, fun w => .jpV0 (opNNN w)⟩,
   ⟨0xF000, 0xC000, fun w => .rnd (opX w) (opNN w)⟩,
   ⟨0xF000, 0xD000, fun w => .drw (opX w) (opY w) (opN w)⟩]

/-- The rows of R97 for the grouped family 8. -/
def opcodeRows8 : List OpcodeRow :=
  [⟨0xF00F, 0x8000, fun w => .ldReg (opX w) (opY w)⟩,
   ⟨0xF00F, 0x8001, fun w => .orReg (opX w) (opY w)⟩,
   ⟨0xF00F, 0x8002, fun w => .andReg (opX w) (opY w)⟩,
   ⟨0xF00F, 0x8003, fun w => .xorReg (opX w) (opY w)⟩,
   ⟨0xF00F, 0x8004, fun w => .addReg (opX w) (opY w)⟩,
   ⟨0xF00F, 0x8005, fun w => .sub (opX w) (opY w)⟩,
   ⟨0xF00F, 0x8006, fun w => .shr (opX w)⟩,
   ⟨0xF00F, 0x8007, fun w => .subn (opX w) (opY w)⟩,
   ⟨0xF00F, 0x800E, fun w => .shl (opX w)⟩]

/-- The rows of R97 for the grouped families E and F. -/
def opcodeRowsEF : List OpcodeRow :=
  [⟨0xF0FF, 0xE09E, fun w => .skp (opX w)⟩, ⟨0xF0FF, 0xE0A1, fun w => .sknp (opX w)⟩,
   ⟨0xF0FF, 0xF007, fun w => .ldVxDt (opX w)⟩, ⟨0xF0FF, 0xF00A, fun w => .ldVxK (opX w)⟩,
   ⟨0xF0FF, 0xF015, fun w => .ldDtVx (opX w)⟩, ⟨0xF0FF, 0xF018, fun w => .ldStVx (opX w)⟩,
   ⟨0xF0FF, 0xF01E, fun w => .addI (opX w)⟩, ⟨0xF0FF, 0xF029, fun w => .ldF (opX w)⟩,
   ⟨0xF0FF, 0xF030, fun w => .ldHf (opX w)⟩, ⟨0xF0FF, 0xF033, fun w => .ldB (opX w)⟩,
   ⟨0xF0FF, 0xF055, fun w => .stRegs (opX w)⟩, ⟨0xF0FF, 0xF065, fun w => .ldRegs (opX w)⟩]

/-- The opcode map: every row of R97. -/
def opcodeMap : List OpcodeRow := opcodeRows0 ++ opcodeRowsPlain ++ opcodeRows8 ++ opcodeRowsEF

/-- The bits of its word that an instruction depends on: its row's mask and its operand fields. The others
are R100's ignored bits. An unrecognized word is kept whole. -/
def examinedBits : Instr → Word
  | .cls => 0xF0FF
  | .ret => 0xF0FF
  | .scd _ => 0xF0FF
  | .scr => 0xF0FF
  | .scl => 0xF0FF
  | .low => 0xF0FF
  | .high => 0xF0FF
  | .seReg _ _ => 0xFFF0
  | .sneReg _ _ => 0xFFF0
  | .shr _ => 0xFF0F
  | .shl _ => 0xFF0F
  | .jp _ => 0xFFFF
  | .call _ => 0xFFFF
  | .seImm _ _ => 0xFFFF
  | .sneImm _ _ => 0xFFFF
  | .ldImm _ _ => 0xFFFF
  | .addImm _ _ => 0xFFFF
  | .ldReg _ _ => 0xFFFF
  | .orReg _ _ => 0xFFFF
  | .andReg _ _ => 0xFFFF
  | .xorReg _ _ => 0xFFFF
  | .addReg _ _ => 0xFFFF
  | .sub _ _ => 0xFFFF
  | .subn _ _ => 0xFFFF
  | .ldI _ => 0xFFFF
  | .jpV0 _ => 0xFFFF
  | .rnd _ _ => 0xFFFF
  | .drw _ _ _ => 0xFFFF
  | .skp _ => 0xFFFF
  | .sknp _ => 0xFFFF
  | .ldVxDt _ => 0xFFFF
  | .ldVxK _ => 0xFFFF
  | .ldDtVx _ => 0xFFFF
  | .ldStVx _ => 0xFFFF
  | .addI _ => 0xFFFF
  | .ldF _ => 0xFFFF
  | .ldHf _ => 0xFFFF
  | .ldB _ => 0xFFFF
  | .stRegs _ => 0xFFFF
  | .ldRegs _ => 0xFFFF
  | .unrecognized _ => 0xFFFF

end Sys2Proof
end

