-- ==== Sys2Proof/Config.lean ====
section
/-! DEFINITION. The parameters of spec/00_scope.md R8 that are fixed for one instance of the hardware.
A parameter the spec leaves OPEN is a constant with no body: nothing can be proved of its value, so a
theorem that mentions it holds for every value. `CYCLES_PER_STEP` is the host's knob and is held in
`State` (log entry 2). -/

namespace Sys2Proof

/-- `DRAW_EDGE` (R8, R269): what happens to sprite pixels past the right or bottom edge. -/
inductive DrawEdge where
  | wrap
  | clip
deriving DecidableEq, Repr, Inhabited

/-- `DXY0_STANDARD` (R8, R270): the shape of `DRW` with `n = 0` in `Standard` mode. -/
inductive Dxy0Standard where
  | empty
  | rows16
  | big16x16
deriving DecidableEq, Repr, Inhabited

/-- `STACK_DEPTH` (R8, R27): 16 in this spec. -/
abbrev Config.stackDepth : Nat := 16

/-- `SCROLL_LR_PIXELS` (R8, R263): 4 in this spec. -/
def Config.scrollLrPixels : Nat := 4

/-- `QUIRK_FX1E_VF` (R8, R231): OPEN. -/
opaque Config.quirkFx1eVf : Bool

/-- `DRAW_EDGE` (R8, R269): OPEN. -/
opaque Config.drawEdge : DrawEdge

/-- `DXY0_STANDARD` (R8, R270): OPEN. -/
opaque Config.dxy0Standard : Dxy0Standard

/-- `SMALL_FONT_BASE` and `BIG_FONT_BASE` (R8, R67): OPEN. An arbitrary pair; the model reads it through
`Sys2Proof.Machine.fontBases`, which keeps it to the legal pairs of R8. -/
opaque Config.fontBases : Nat × Nat

/-- `SMALL_FONT` (R8, R361): 80 bytes supplied by the host, OPEN. -/
opaque Config.smallFont : Vector Byte 80

/-- `BIG_FONT` (R8, R361): 100 bytes supplied by the host, OPEN. -/
opaque Config.bigFont : Vector Byte 100

/-- `RANDOM` (R8, R201): the oracle's byte at each draw, a free value. `State.draws` numbers the draws,
so each `RND` takes a fresh one and no law relates two of them. DESIGN CHOICE (log entry 1), unsafe: that two runs
take the same byte at the same number of the draw, which the spec does not say (N22). -/
opaque Config.randomByte : Nat → Byte

end Sys2Proof
end

