-- ==== Sys2Proof/Machine/Params.lean ====
section
/-! DEFINITION. The parameters of spec/00_scope.md R7 and R8 as the machine reads them: every meaning goes
through these names, never to `Config` itself. -/

namespace Sys2Proof.Machine

/-- The load base, where `load_program` copies and where reset sets the `PC` (R7, R67; decision D1). -/
def loadBase : Addr := 0x200#12

/-- `QUIRK_FX1E_VF` (R8, R231). -/
def quirkFx1eVf : Bool := Config.quirkFx1eVf

/-- `DRAW_EDGE` (R8, R269). -/
def drawEdge : DrawEdge := Config.drawEdge

/-- `DXY0_STANDARD` (R8, R270). -/
def dxy0Standard : Dxy0Standard := Config.dxy0Standard

/-- `SCROLL_LR_PIXELS` (R8, R263, R264). -/
def scrollDistance : Nat := Config.scrollLrPixels

/-- R8's condition on the font bases: both fonts fit in 0x000-0x1FF and are disjoint. -/
def fontBasesLegal (p : Nat × Nat) : Bool :=
  p.1 + 80 ≤ 0x200 && p.2 + 100 ≤ 0x200 && (p.1 + 80 ≤ p.2 || p.2 + 100 ≤ p.1)

/-- `SMALL_FONT_BASE` and `BIG_FONT_BASE`: any legal pair (R8). An illegal `Config.fontBases` stands for one
of them, so exactly the legal pairs are possible and none is known. -/
def fontBases : Nat × Nat :=
  if fontBasesLegal Config.fontBases then Config.fontBases else (0x000, 0x050)

/-- `SMALL_FONT_BASE` (R8). -/
def smallFontBase : Nat := fontBases.1

/-- `BIG_FONT_BASE` (R8). -/
def bigFontBase : Nat := fontBases.2

/-- `SMALL_FONT[k]`, for `k < 80` (R361). -/
def smallFontByte (k : Nat) : Byte := Config.smallFont[k]?.getD 0

/-- `BIG_FONT[k]`, for `k < 100` (R361). -/
def bigFontByte (k : Nat) : Byte := Config.bigFont[k]?.getD 0

/-- The byte the `RANDOM` oracle gives at draw number `k` (R201), the same one in every run (DESIGN CHOICE, log
entry 1). -/
def randomByte (k : Nat) : Byte := Config.randomByte k

end Sys2Proof.Machine
end

