-- ==== Sys2Proof/Machine/Framebuffer.lean ====
section
/-! DEFINITION. The framebuffer storage of 64 rows by 128 one-bit columns (spec/10_state.md R31), one bit
vector a row, bit `x` of row `y` being the pixel `FB[y][x]`; and the operations on it, each with the active
rectangle as an argument (R32). -/

namespace Sys2Proof.Machine

/-- The display mode `MODE` (R30). -/
inductive DisplayMode where
  | standard
  | extended
deriving DecidableEq, Repr

/-- The active width `W` (R30). -/
def modeWidth : DisplayMode → Nat
  | .standard => 64
  | .extended => 128

/-- The active height `H` (R30). -/
def modeHeight : DisplayMode → Nat
  | .standard => 32
  | .extended => 64

/-- One row of pixels; bit `x` is the pixel of column `x`. -/
abbrev PixelRow := BitVec 128

/-- The framebuffer storage `FB` (R31). -/
abbrev Framebuffer := Vector PixelRow 64

/-- Row `y` of the storage; no pixel outside it is set. -/
def Framebuffer.row (fb : Framebuffer) (y : Nat) : PixelRow := fb[y]?.getD 0

/-- The pixel `FB[y][x]`. -/
def Framebuffer.pixel (fb : Framebuffer) (y x : Nat) : Bool := (fb.row y).getLsbD x

/-- `FB[y][x] <- FB[y][x] ^ 1` (R267). -/
def Framebuffer.toggle (fb : Framebuffer) (y x : Nat) : Framebuffer :=
  fb.setIfInBounds y (fb.row y ^^^ BitVec.twoPow 128 x)

/-- The columns below `w`. -/
def columnMask (w : Nat) : PixelRow := BitVec.ofNat 128 (2 ^ w - 1)

/-- The columns below `w` from `new`, the others from `old`. -/
def replaceColumns (w : Nat) (old new : PixelRow) : PixelRow :=
  (new &&& columnMask w) ||| (old &&& ~~~(columnMask w))

/-- Give every row `y` of the active rectangle `w` by `h` the pixels `f y`; pixels outside it stay (R32, R260). -/
def Framebuffer.mapActive (w h : Nat) (f : Nat → PixelRow) (fb : Framebuffer) : Framebuffer :=
  Vector.ofFn fun y => if y.val < h then replaceColumns w (fb.row y.val) (f y.val) else fb.row y.val

/-- Every pixel of the active rectangle becomes 0 (R261). -/
def Framebuffer.clear (w h : Nat) (fb : Framebuffer) : Framebuffer :=
  fb.mapActive w h fun _ => 0

/-- The active rectangle moves down by `n` rows, the rows above filled with 0 (R262). -/
def Framebuffer.scrollDown (w h n : Nat) (fb : Framebuffer) : Framebuffer :=
  fb.mapActive w h fun y => if n ≤ y then fb.row (y - n) else 0

/-- The active rectangle moves right by `d` columns, the columns on the left filled with 0 (R263). -/
def Framebuffer.scrollRight (w h d : Nat) (fb : Framebuffer) : Framebuffer :=
  fb.mapActive w h fun y => fb.row y <<< d

/-- The active rectangle moves left by `d` columns, the columns on the right filled with 0 (R264). -/
def Framebuffer.scrollLeft (w h d : Nat) (fb : Framebuffer) : Framebuffer :=
  fb.mapActive w h fun y => (fb.row y &&& columnMask w) >>> d

/-- The draw loop of R267 over the pixels the sprite sets, as (column, row) pairs in the loop's order: each is
toggled, and the draw has collided when one of them was 1. -/
def Framebuffer.drawPixels (fb : Framebuffer) (ps : List (Nat × Nat)) : Framebuffer × Bool :=
  ps.foldl (fun acc p => (acc.1.toggle p.2 p.1, acc.2 || acc.1.pixel p.2 p.1)) (fb, false)

end Sys2Proof.Machine
end

