-- ==== Sys2Proof/Machine/Memory.lean ====
section
/-! DEFINITION. The one memory of 4096 bytes (spec/20_memory.md): a list of address and byte pairs in one
canonical form, addresses strictly rising and below 4096, no entry equal to what an unlisted address reads
as. An unlisted address reads as its reset contents. -/

namespace Sys2Proof.Machine

/-- The number of bytes of the address space (R60). -/
abbrev memSize : Nat := 4096

/-- What reset leaves at an address: the fonts copied into 0x000-0x1FF, every other byte 0 (R60, R360, R361). -/
def resetByte (a : Nat) : Byte :=
  if a < 0x200 then
    if smallFontBase ≤ a ∧ a < smallFontBase + 80 then smallFontByte (a - smallFontBase)
    else if bigFontBase ≤ a ∧ a < bigFontBase + 100 then bigFontByte (a - bigFontBase)
    else 0
  else 0

/-- The bytes that differ from their reset contents. -/
abbrev Memory := List Host.Cell

/-- R61's wrap: every address is taken modulo 4096. -/
def wrapAddr (a : Nat) : Nat := a % memSize

/-- The byte held at an address below 4096. -/
def Memory.lookup : Memory → Nat → Byte
  | [], a => resetByte a
  | (k, b) :: m, a => if a = k then b else Memory.lookup m a

/-- The list without any entry for an address. -/
def Memory.erase (m : Memory) (a : Nat) : Memory := m.filter fun c => c.1 != a

/-- The list with an entry put before the first higher address. -/
def Memory.place : Memory → Nat → Byte → Memory
  | [], a, v => [(a, v)]
  | (k, b) :: m, a, v => if a < k then (a, v) :: (k, b) :: m else (k, b) :: Memory.place m a v

/-- Put a byte at an address below 4096: an entry unless the address would read so unlisted. -/
def Memory.insert (m : Memory) (a : Nat) (v : Byte) : Memory :=
  if v = resetByte a then m.erase a else (m.erase a).place a v

/-- `MemRead(a, 1)` (R10, R61). -/
def Memory.read (m : Memory) (a : Nat) : Byte := m.lookup (wrapAddr a)

/-- `MemWrite(a, 1, v)` (R10, R61). -/
def Memory.write (m : Memory) (a : Nat) (v : Byte) : Memory := m.insert (wrapAddr a) v

/-- `MemWrite(a + k, 1, bytes[k])` for each `k` in order (R64: every access is one byte wide). -/
def Memory.writeBytes : Memory → Nat → List Byte → Memory
  | m, _, [] => m
  | m, a, b :: bs => Memory.writeBytes (m.write a b) (a + 1) bs

/-- The canonical form, for a list whose addresses are all at least `lo`. -/
def Memory.wfFrom : Nat → Memory → Bool
  | _, [] => true
  | lo, (k, b) :: m => lo ≤ k && k < memSize && b != resetByte k && Memory.wfFrom (k + 1) m

/-- The canonical form of memory. -/
def Memory.wf (m : Memory) : Bool := Memory.wfFrom 0 m

end Sys2Proof.Machine
end

