-- ==== Sys2Proof/Machine/State.lean ====
section
/-! DEFINITION. The machine's state as plain data: every row of spec/10_state.md R20, and below it the model's
own fields (the number of random draws taken, the host's side of the interface). The reasons a step can stop
and the state after reset. -/

namespace Sys2Proof.Machine

/-- The key latch (R34): a press not yet consumed, and the last key pressed. -/
structure KeyLatch where
  pending : Bool
  key : Fin 16
deriving DecidableEq, Repr

/-- The operations of the host interface (R137). -/
inductive HostOp where
  /-- `reset()` (R360) -/
  | reset
  /-- `load_program(bytes)`; `none` when the source cannot be read (R138) -/
  | loadProgram (image : Option (List Byte))
  /-- `set_key(k, pressed)` (R139) -/
  | setKey (k : Nat) (pressed : Bool)
  /-- `step()` (R134) -/
  | step
  /-- `get_framebuffer()` (R140) -/
  | getFramebuffer
  /-- `get_display_mode()` (R141) -/
  | getDisplayMode
  /-- `get_timers()` (R142) -/
  | getTimers
deriving DecidableEq, Repr

structure State where
  /-- `V[0..15]` (R21, R22) -/
  v : Vector Byte 16
  /-- `I` (R24) -/
  i : Word
  /-- `PC` (R25) -/
  pc : Addr
  /-- `STACK[0..STACK_DEPTH-1]` (R27) -/
  stack : Vector Addr Config.stackDepth
  /-- `SP`, 0 to `STACK_DEPTH` (R27) -/
  sp : Fin (Config.stackDepth + 1)
  /-- `DT` (R29) -/
  dt : Byte
  /-- `ST` (R29) -/
  st : Byte
  /-- `MODE` (R30) -/
  mode : DisplayMode
  /-- `FB[0..63][0..127]` (R31) -/
  fb : Framebuffer
  /-- `KEY[0..15]` (R33) -/
  keys : Vector Bool 16
  /-- `LATCH.pending`, `LATCH.key` (R34) -/
  latch : KeyLatch
  /-- `UNKNOWN_COUNT` (R35) -/
  unknownCount : BitVec 32
  /-- `MEM[0..4095]` (R60) -/
  mem : Memory
  /-- the model's own: how many bytes the `RANDOM` oracle has given (R201; log entry 1) -/
  draws : Nat
  /-- `CYCLES_PER_STEP`, set by the host (R135; log entry 2) -/
  cyclesPerStep : Nat
  /-- the model's own: cycles still to run in the host's current `step()`; 0 when the core is driven cycle by
  cycle, outside a `step()` (R133, R134; log entry 2) -/
  cyclesLeft : Nat
  /-- the model's own: the operations the host will make after the current `step()`, in order (R137, R143;
  log entry 2) -/
  hostOps : List HostOp
deriving DecidableEq, Repr

/-- Why the machine stops with a fault. There is no constructor: the spec treats no behaviour as a fault
(R330: every word executes to completion). Nobody raises one. -/
inductive Fault where
deriving DecidableEq, Repr

/-- Why a step has no meaning. -/
inductive Refusal where
  /-- raised by an arm of `exec` whose instruction has no meaning yet; safe. No arm raises it. -/
  | notModelled (mnemonic : String)
deriving DecidableEq, Repr

/-- The state `reset()` produces on a new instance (R360 to R362). Memory lists nothing: an unlisted address
reads as its reset contents. The model's own fields: no draw taken, one cycle a `step()`, no `step()` in
progress and no host operation waiting (DESIGN CHOICE, log entries 1 and 2). -/
def State.reset : State where
  v := Vector.replicate 16 0
  i := 0
  pc := loadBase
  stack := Vector.replicate Config.stackDepth 0
  sp := 0
  dt := 0
  st := 0
  mode := .standard
  fb := Vector.replicate 64 0
  keys := Vector.replicate 16 false
  latch := { pending := false, key := 0 }
  unknownCount := 0
  mem := []
  draws := 0
  cyclesPerStep := 1
  cyclesLeft := 0
  hostOps := []

end Sys2Proof.Machine
end

