-- ==== Sys2Proof/Machine/Ops.lean ====
section
/-! DEFINITION. The named operations over registers and memory that the meanings share. Each field of `State`
is written through one of the updates here. The hardware has no exception to take and none to return from
(spec/60_exceptions.md R330, R336, R337), so there is no such operation; what an unrecognized word does
instead is `State.reportUnrecognized` (R331). -/

namespace Sys2Proof.Machine

/-- What a meaning answers. -/
abbrev Result := Host.Outcome State Fault Refusal

/-! ### Registers (R21, R24, R25, R27, R29, R30, R34, R35) -/

/-- `V[k]` (R10, R21). -/
def State.reg (s : State) (k : RegIdx) : Byte := s.v[k]

/-- `V[k] <- b` (R10, R21). -/
def State.setReg (s : State) (k : RegIdx) (b : Byte) : State := { s with v := s.v.set k b }

/-- `V[k] <- f k` for every `k`. -/
def State.setRegs (s : State) (f : RegIdx → Byte) : State := { s with v := Vector.ofFn f }

/-- `I <- w` (R24). -/
def State.setI (s : State) (w : Word) : State := { s with i := w }

/-- `PC <- a` (R25). -/
def State.setPc (s : State) (a : Addr) : State := { s with pc := a }

/-- `DT <- b` (R29). -/
def State.setDt (s : State) (b : Byte) : State := { s with dt := b }

/-- `ST <- b` (R29). -/
def State.setSt (s : State) (b : Byte) : State := { s with st := b }

/-- `MODE <- m` (R30). -/
def State.setMode (s : State) (m : DisplayMode) : State := { s with mode := m }

/-- The framebuffer storage is written whole (R31). -/
def State.setFb (s : State) (fb : Framebuffer) : State := { s with fb := fb }

/-- `LATCH` (R34). -/
def State.setLatch (s : State) (l : KeyLatch) : State := { s with latch := l }

/-- `KEY[0..15]` (R33). -/
def State.setKeys (s : State) (k : Vector Bool 16) : State := { s with keys := k }

/-- `MEM` is written whole (R60). -/
def State.setMem (s : State) (m : Memory) : State := { s with mem := m }

/-- The `RANDOM` oracle has given one more byte (R201). -/
def State.countDraw (s : State) : State := { s with draws := s.draws + 1 }

/-- `UNKNOWN_COUNT <- (UNKNOWN_COUNT + 1) mod 2^32`, the report of R331. -/
def State.reportUnrecognized (s : State) : State := { s with unknownCount := s.unknownCount + 1 }

/-! ### The stack (R27): no other operation touches `STACK` or `SP` -/

/-- Whether a push is ignored (R27). -/
def State.stackFull (s : State) : Bool := s.sp.val = Config.stackDepth

/-- `STACK[SP] <- a; SP <- SP + 1`, on a stack that is not full; nothing on a full one (R27, R162). -/
def State.push (s : State) (a : Addr) : State :=
  if h : s.sp.val < Config.stackDepth then
    { s with stack := s.stack.set s.sp.val a, sp := ⟨s.sp.val + 1, Nat.succ_lt_succ h⟩ }
  else s

/-- `STACK[SP - 1]`, the entry `RET` reads, when there is one (R160). -/
def State.top? (s : State) : Option Addr :=
  if s.sp.val = 0 then none else s.stack[s.sp.val - 1]?

/-- `SP <- SP - 1`; the popped entry keeps its value (R28, R160). -/
def State.pop (s : State) : State :=
  { s with sp := ⟨s.sp.val - 1, Nat.lt_of_le_of_lt (Nat.sub_le _ _) s.sp.isLt⟩ }

/-! ### Memory (R61) -/

/-- `MemRead(a, 1)`. -/
def State.memRead (s : State) (a : Nat) : Byte := s.mem.read a

/-- `MemWrite(a + k, 1, bytes[k])` for each `k` in order. -/
def State.memWriteBytes (s : State) (a : Nat) (bytes : List Byte) : State :=
  s.setMem (s.mem.writeBytes a bytes)

/-- The instruction word at the `PC`, big-endian, its second byte at `PC + 1` modulo 4096 (R63). -/
def State.fetchWord (s : State) : Word :=
  wordOfBytes (s.memRead s.pc.toNat) (s.memRead (s.pc.toNat + 1))

/-! ### The program counter (R131) -/

/-- `PC <- PC + 2`. -/
def State.advance (s : State) : State := s.setPc (s.pc + 2)

/-- `PC <- PC + 4` when the condition holds, else `PC + 2`. -/
def State.skipIf (s : State) (c : Bool) : State := s.setPc (if c then s.pc + 4 else s.pc + 2)

end Sys2Proof.Machine
end

