-- ==== Sys2Proof/Machine/Operands.lean ====
section
/-! DEFINITION. The operand forms (spec/30_encoding.md R92): how an operand's value comes from an instruction's
fields and the state. Register and immediate operands need no more than `State.reg` and the field itself. -/

namespace Sys2Proof.Machine

/-- A 12-bit address widened with zeros to the width of `I` (R92, R230). -/
def zextAddr (nnn : Addr) : Word := nnn.setWidth 16

/-- The target `V0 + nnn` of `JP V0, nnn`, kept to 12 bits (R167). -/
def State.offsetTarget (s : State) (nnn : Addr) : Addr :=
  ((s.reg 0).setWidth 16 + nnn.setWidth 16).setWidth 12

/-- Whether the key named by a register's value is held; a value above 15 names none (R300). -/
def State.keyHeld (s : State) (k : Byte) : Bool := s.keys[k.toNat]?.getD false

/-- The address `I + k` of an `I`-relative access, before R61's wrap. -/
def State.atI (s : State) (k : Nat) : Nat := s.i.toNat + k

/-- The address of a glyph: `base + size * V[x]` (R232, R233). -/
def glyphAddr (base size : Nat) (digit : Byte) : Word := BitVec.ofNat 16 (base + size * digit.toNat)

/-- The three decimal digits of a byte, hundreds first (R234). -/
def bcdDigits (a : Byte) : List Byte :=
  [BitVec.ofNat 8 (a.toNat / 100), BitVec.ofNat 8 (a.toNat / 10 % 10), BitVec.ofNat 8 (a.toNat % 10)]

/-- `V[0]` to `V[x]` in order (R235). -/
def State.regsUpTo (s : State) (x : RegIdx) : List Byte := s.v.toList.take (x.val + 1)

/-- The rows and columns of a sprite, `shape(n, MODE)`, for a value of `DXY0_STANDARD` (R270). -/
def spriteShape (dxy0 : Dxy0Standard) (n : BitVec 4) (m : DisplayMode) : Nat × Nat :=
  if n = 0 then
    match m, dxy0 with
    | .extended, _ => (16, 16)
    | .standard, .empty => (0, 8)
    | .standard, .rows16 => (16, 8)
    | .standard, .big16x16 => (16, 16)
  else (n.toNat, 8)

/-- `sprite_bit(r, c)` of a sprite of `cols` columns at `I`: one byte a row, or two with the byte at the lower
address on the left, the most significant bit leftmost (R268). -/
def State.spriteBit (s : State) (cols r c : Nat) : Bool :=
  if cols = 16 then
    (s.memRead (s.atI (2 * r)) ++ s.memRead (s.atI (2 * r + 1))).getLsbD (15 - c)
  else (s.memRead (s.atI r)).getLsbD (7 - c)

/-- `place(x0 + c, y0 + r)` as a (column, row) pair when the pixel is visible (R269). -/
def placePixel (edge : DrawEdge) (w h x0 y0 c r : Nat) : Option (Nat × Nat) :=
  match edge with
  | .wrap => some ((x0 + c) % w, (y0 + r) % h)
  | .clip => if x0 % w + c < w ∧ y0 % h + r < h then some (x0 % w + c, y0 % h + r) else none

/-- The visible 1 bits of a sprite of `rows` by `cols` at `I`, as (column, row) pairs, row by row
(R267 to R269). -/
def State.spritePixels (edge : DrawEdge) (rows cols x0 y0 : Nat) (s : State) : List (Nat × Nat) :=
  (List.range rows).flatMap fun r =>
    (List.range cols).filterMap fun c =>
      if s.spriteBit cols r c then
        placePixel edge (modeWidth s.mode) (modeHeight s.mode) x0 y0 c r
      else none

end Sys2Proof.Machine
end

