-- ==== Sys2Proof/Machine/Flags.lean ====
section
/-! DEFINITION. Every flag the spec computes (spec/10_state.md R22), and the write order of result and flag
(spec/42_arithmetic.md R202). -/

namespace Sys2Proof.Machine

/-- A flag as the byte written to `VF`: 0 or 1 (R22). -/
def flagByte (b : Bool) : Byte := if b then 1 else 0

/-- Carry of `a + b`: the mathematical sum exceeds 255 (R196, R203). -/
def carryOut (a b : Byte) : Bool := 255 < a.toNat + b.toNat

/-- Not-borrow of `a - b`: the minuend is at least the subtrahend (R197, R199, R203). -/
def notBorrow (a b : Byte) : Bool := b.toNat ≤ a.toNat

/-- The bit a right shift by one drops (R198). -/
def shiftedOutRight (a : Byte) : Bool := a.getLsbD 0

/-- The bit a left shift by one drops (R200). -/
def shiftedOutLeft (a : Byte) : Bool := a.getLsbD 7

/-- `I + a` passes 0xFFF (R231). -/
def addressOverflow (i : Word) (a : Byte) : Bool := 0xFFF < i.toNat + a.toNat

/-- `V[15] <- flag` (R22). -/
def State.setFlag (s : State) (b : Bool) : State := s.setReg vF (flagByte b)

/-- The result to `V[x]`, then the flag to `VF`, which wins when `x = 15` (R202). -/
def State.setResultAndFlag (s : State) (x : RegIdx) (r : Byte) (b : Bool) : State :=
  (s.setReg x r).setFlag b

end Sys2Proof.Machine
end

