-- ==== Sys2Proof/Machine/AddressMemory.lean ====
section
/-! DEFINITION. Address register, font glyph addresses, BCD and block transfers
(spec/43_address_and_memory.md). -/

namespace Sys2Proof.Machine

/-- `LD I, nnn` (R230). -/
def execLdI (nnn : Addr) (s : State) : Result := .next (s.setI (zextAddr nnn)).advance

/-- `I` after `ADD I, Vx`: the sum modulo 2^16 (R231). -/
def addToI (i : Word) (a : Byte) : Word := i + a.setWidth 16

/-- The registers after `ADD I, Vx` for a value of `QUIRK_FX1E_VF`: `VF` is the address overflow, or stays
(R231). -/
def addIRegs (quirk : Bool) (s : State) (x : RegIdx) (k : RegIdx) : Byte :=
  if k == vF && quirk then flagByte (addressOverflow s.i (s.reg x)) else s.reg k

/-- `ADD I, Vx` for a value of `QUIRK_FX1E_VF` (R231). -/
def addIWith (quirk : Bool) (x : RegIdx) (s : State) : State :=
  ((s.setI (addToI s.i (s.reg x))).setRegs (addIRegs quirk s x)).advance

/-- `ADD I, Vx` (R231). -/
def execAddI (x : RegIdx) (s : State) : Result := .next (addIWith quirkFx1eVf x s)

/-- `LD F, Vx` (R232): the 5-byte glyph. -/
def execLdF (x : RegIdx) (s : State) : Result :=
  .next (s.setI (glyphAddr smallFontBase 5 (s.reg x))).advance

/-- `LD HF, Vx` (R233): the 10-byte glyph. -/
def execLdHf (x : RegIdx) (s : State) : Result :=
  .next (s.setI (glyphAddr bigFontBase 10 (s.reg x))).advance

/-- `LD B, Vx` (R234): the decimal digits to `I`, `I + 1`, `I + 2`; `I` stays. -/
def execLdB (x : RegIdx) (s : State) : Result :=
  .next (s.memWriteBytes (s.atI 0) (bcdDigits (s.reg x))).advance

/-- `I <- I + x + 1` of the block transfers, modulo 2^16 (R235, R236). -/
def State.stepI (s : State) (x : RegIdx) : State := s.setI (s.i + BitVec.ofNat 16 (x.val + 1))

/-- `LD [I], Vx` (R235): store `V0` to `Vx`. -/
def execStRegs (x : RegIdx) (s : State) : Result :=
  .next ((s.memWriteBytes (s.atI 0) (s.regsUpTo x)).stepI x).advance

/-- `LD Vx, [I]` (R236): load `V0` to `Vx`. -/
def execLdRegs (x : RegIdx) (s : State) : Result :=
  .next ((s.setRegs fun k => if k ≤ x then s.memRead (s.atI k.val) else s.reg k).stepI x).advance

end Sys2Proof.Machine
end

