-- ==== Sys2Proof/Machine/Arithmetic.lean ====
section
/-! DEFINITION. Register arithmetic, logic and random (spec/42_arithmetic.md). Operands are read from the state
the instruction began in (R202); byte arithmetic wraps modulo 256 (R203). -/

namespace Sys2Proof.Machine

/-- `LD Vx, nn` (R190). -/
def execLdImm (x : RegIdx) (nn : Byte) (s : State) : Result := .next (s.setReg x nn).advance

/-- `ADD Vx, nn` (R191): no flag. -/
def execAddImm (x : RegIdx) (nn : Byte) (s : State) : Result :=
  .next (s.setReg x (s.reg x + nn)).advance

/-- `LD Vx, Vy` (R192). -/
def execLdReg (x y : RegIdx) (s : State) : Result := .next (s.setReg x (s.reg y)).advance

/-- `OR Vx, Vy` (R193): no flag. -/
def execOrReg (x y : RegIdx) (s : State) : Result := .next (s.setReg x (s.reg x ||| s.reg y)).advance

/-- `AND Vx, Vy` (R194): no flag. -/
def execAndReg (x y : RegIdx) (s : State) : Result := .next (s.setReg x (s.reg x &&& s.reg y)).advance

/-- `XOR Vx, Vy` (R195): no flag. -/
def execXorReg (x y : RegIdx) (s : State) : Result := .next (s.setReg x (s.reg x ^^^ s.reg y)).advance

/-- `ADD Vx, Vy` (R196): `VF` is the carry. -/
def execAddReg (x y : RegIdx) (s : State) : Result :=
  .next (s.setResultAndFlag x (s.reg x + s.reg y) (carryOut (s.reg x) (s.reg y))).advance

/-- `SUB Vx, Vy` (R197): `VF` is not-borrow. -/
def execSub (x y : RegIdx) (s : State) : Result :=
  .next (s.setResultAndFlag x (s.reg x - s.reg y) (notBorrow (s.reg x) (s.reg y))).advance

/-- `SHR Vx` (R198): `VF` is the bit shifted out; `Vy` is not read. -/
def execShr (x : RegIdx) (s : State) : Result :=
  .next (s.setResultAndFlag x (s.reg x >>> 1) (shiftedOutRight (s.reg x))).advance

/-- `SUBN Vx, Vy` (R199): `VF` is not-borrow. -/
def execSubn (x y : RegIdx) (s : State) : Result :=
  .next (s.setResultAndFlag x (s.reg y - s.reg x) (notBorrow (s.reg y) (s.reg x))).advance

/-- `SHL Vx` (R200): `VF` is the bit shifted out; `Vy` is not read. -/
def execShl (x : RegIdx) (s : State) : Result :=
  .next (s.setResultAndFlag x (s.reg x <<< 1) (shiftedOutLeft (s.reg x))).advance

/-- `RND Vx, nn` (R201): a fresh byte of the `RANDOM` oracle under the mask. DESIGN CHOICE (log entry 1), unsafe: two
executions at the same number of the draw take the same byte; the spec leaves open whether two runs do (N22). -/
def execRnd (x : RegIdx) (nn : Byte) (s : State) : Result :=
  .next (s.setReg x (randomByte s.draws &&& nn)).countDraw.advance

end Sys2Proof.Machine
end

