-- ==== Sys2Proof/Machine/ControlFlow.lean ====
section
/-! DEFINITION. Control transfer (spec/41_control_flow.md). -/

namespace Sys2Proof.Machine

/-- `RET` (R160): pop and continue after the `CALL`; an empty stack is ignored (R332). -/
def execRet (s : State) : Result :=
  match s.top? with
  | some a => .next (s.pop.setPc (a + 2))
  | none => .next s.advance

/-- `JP nnn` (R161). -/
def execJp (nnn : Addr) (s : State) : Result := .next (s.setPc nnn)

/-- `CALL nnn` (R162): push this instruction's own address and jump; with a full stack the whole call is
ignored (R332). -/
def execCall (nnn : Addr) (s : State) : Result :=
  if s.stackFull then .next s.advance else .next ((s.push s.pc).setPc nnn)

/-- `SE Vx, nn` (R163). -/
def execSeImm (x : RegIdx) (nn : Byte) (s : State) : Result := .next (s.skipIf (s.reg x = nn))

/-- `SNE Vx, nn` (R164). -/
def execSneImm (x : RegIdx) (nn : Byte) (s : State) : Result := .next (s.skipIf (s.reg x ≠ nn))

/-- `SE Vx, Vy` (R165). -/
def execSeReg (x y : RegIdx) (s : State) : Result := .next (s.skipIf (s.reg x = s.reg y))

/-- `SNE Vx, Vy` (R166). -/
def execSneReg (x y : RegIdx) (s : State) : Result := .next (s.skipIf (s.reg x ≠ s.reg y))

/-- `JP V0, nnn` (R167). -/
def execJpV0 (nnn : Addr) (s : State) : Result := .next (s.setPc (s.offsetTarget nnn))

end Sys2Proof.Machine
end

