-- ==== Sys2Proof/Machine/Display.lean ====
section
/-! DEFINITION. Clear, scroll, mode switch and sprite draw (spec/44_display.md). Each reads the active
rectangle of `MODE` when it begins (R260). -/

namespace Sys2Proof.Machine

/-- The framebuffer when the mode is `Extended`, else as it is: what a scroll leaves (R262 to R264). -/
def State.inExtended (s : State) (fb : Framebuffer) : Framebuffer :=
  match s.mode with
  | .extended => fb
  | .standard => s.fb

/-- `CLS` (R261). -/
def execCls (s : State) : Result :=
  .next (s.setFb (s.fb.clear (modeWidth s.mode) (modeHeight s.mode))).advance

/-- `SCD n` (R262): no effect on pixels in `Standard` mode. -/
def execScd (n : BitVec 4) (s : State) : Result :=
  .next (s.setFb (s.inExtended (s.fb.scrollDown (modeWidth s.mode) (modeHeight s.mode) n.toNat))).advance

/-- `SCR` (R263): no effect on pixels in `Standard` mode. -/
def execScr (s : State) : Result :=
  .next (s.setFb (s.inExtended (s.fb.scrollRight (modeWidth s.mode) (modeHeight s.mode) scrollDistance))).advance

/-- `SCL` (R264): no effect on pixels in `Standard` mode. -/
def execScl (s : State) : Result :=
  .next (s.setFb (s.inExtended (s.fb.scrollLeft (modeWidth s.mode) (modeHeight s.mode) scrollDistance))).advance

/-- `LOW` (R265): pixels stay. -/
def execLow (s : State) : Result := .next (s.setMode .standard).advance

/-- `HIGH` (R266): pixels stay. -/
def execHigh (s : State) : Result := .next (s.setMode .extended).advance

/-- `DRW Vx, Vy, n` for values of `DRAW_EDGE` and `DXY0_STANDARD` (R267): the coordinates are read before `VF`
is written; `VF` is the collision. -/
def drwWith (edge : DrawEdge) (dxy0 : Dxy0Standard) (x y : RegIdx) (n : BitVec 4) (s : State) : State :=
  let shape := spriteShape dxy0 n s.mode
  let drawn := s.fb.drawPixels (s.spritePixels edge shape.1 shape.2 (s.reg x).toNat (s.reg y).toNat)
  ((s.setFb drawn.1).setFlag drawn.2).advance

/-- `DRW Vx, Vy, n` (R267). -/
def execDrw (x y : RegIdx) (n : BitVec 4) (s : State) : Result :=
  .next (drwWith drawEdge dxy0Standard x y n s)

end Sys2Proof.Machine
end

