-- ==== Sys2Proof/Machine/InputTimers.lean ====
section
/-! DEFINITION. Key input and timers (spec/45_input_and_timers.md). -/

namespace Sys2Proof.Machine

/-- `SKP Vx` (R300). -/
def execSkp (x : RegIdx) (s : State) : Result := .next (s.skipIf (s.keyHeld (s.reg x)))

/-- `SKNP Vx` (R301). -/
def execSknp (x : RegIdx) (s : State) : Result := .next (s.skipIf (!s.keyHeld (s.reg x)))

/-- `LD Vx, DT` (R302). -/
def execLdVxDt (x : RegIdx) (s : State) : Result := .next (s.setReg x s.dt).advance

/-- `LD Vx, K` (R303): consume a latched press, or stay at this instruction with no effect. -/
def execLdVxK (x : RegIdx) (s : State) : Result :=
  match s.latch.pending with
  | true =>
    .next ((s.setReg x (BitVec.ofNat 8 s.latch.key.val)).setLatch { s.latch with pending := false }).advance
  | false => .next s

/-- `LD DT, Vx` (R304). -/
def execLdDtVx (x : RegIdx) (s : State) : Result := .next (s.setDt (s.reg x)).advance

/-- `LD ST, Vx` (R305). -/
def execLdStVx (x : RegIdx) (s : State) : Result := .next (s.setSt (s.reg x)).advance

end Sys2Proof.Machine
end

