-- ==== Sys2Proof/Machine/Unrecognized.lean ====
section
/-! DEFINITION. What an unrecognized word does (spec/60_exceptions.md R331). -/

namespace Sys2Proof.Machine

/-- An unrecognized word: reported, no other state change, `PC + 2` (R331). -/
def execUnrecognized (_w : Word) (s : State) : Result := .next s.reportUnrecognized.advance

end Sys2Proof.Machine
end

