-- ==== Sys2Proof/Machine/HostInterface.lean ====
section
/-! DEFINITION. The host interface (spec/40_cycle_and_host.md R137 to R143) and what happens at the end of a
cycle: the timer tick of R134, then the host's operations up to its next `step()`. -/

namespace Sys2Proof.Machine

/-- A timer's value after a tick: one less, never below 0 (R29, R134). -/
def tick (b : Byte) : Byte := if b = 0 then 0 else b - 1

/-- The end of a `step()`: both timers tick (R134). -/
def State.tickTimers (s : State) : State := (s.setDt (tick s.dt)).setSt (tick s.st)

/-! ### The operations (R137) -/

/-- `reset()` (R360): every element of R20 to its reset value. The parameters are not state and the `RANDOM`
oracle is not reset; the host's remaining operations are the host's. -/
def State.hostReset (s : State) : State :=
  { State.reset with
    draws := s.draws, cyclesPerStep := s.cyclesPerStep, cyclesLeft := s.cyclesLeft, hostOps := s.hostOps }

/-- Whether `load_program` succeeds: the source was read and fits from the load base up (R138). -/
def loadFits : Option (List Byte) → Bool
  | none => false
  | some bytes => bytes.length ≤ memSize - loadBase.toNat

/-- `load_program(bytes)` (R138): copy at the load base, or change nothing. -/
def State.loadProgram (s : State) (image : Option (List Byte)) : State :=
  match image with
  | none => s
  | some bytes => if loadFits (some bytes) then s.memWriteBytes loadBase.toNat bytes else s

/-- `set_key(k, pressed)` (R139): a press also sets the latch; `k > 15` does nothing. -/
def State.setKey (s : State) (k : Nat) (pressed : Bool) : State :=
  if h : k < 16 then
    let t := s.setKeys (s.keys.set k pressed)
    if pressed then t.setLatch { pending := true, key := ⟨k, h⟩ } else t
  else s

/-- A pixel as the byte the host sees (R140). -/
def pixelByte (b : Bool) : Byte := if b then 1 else 0

/-- `get_framebuffer()` (R140): the active region, row by row. -/
def State.getFramebuffer (s : State) : List Byte :=
  (List.range (modeHeight s.mode)).flatMap fun y =>
    (List.range (modeWidth s.mode)).map fun x => pixelByte (s.fb.pixel y x)

/-- `get_display_mode()` (R141). -/
def State.getDisplayMode (s : State) : DisplayMode := s.mode

/-- `get_timers()` (R142). -/
def State.getTimers (s : State) : Byte × Byte := (s.dt, s.st)

/-- What an operation returns to the host (R137). -/
inductive HostReply where
  | done
  | loaded
  | loadError
  | framebuffer (bytes : List Byte)
  | displayMode (m : DisplayMode)
  | timers (dt st : Byte)
deriving DecidableEq, Repr

/-- The reply of an operation made in a state (R137). -/
def State.reply (s : State) : HostOp → HostReply
  | .reset => .done
  | .loadProgram image => if loadFits image then .loaded else .loadError
  | .setKey _ _ => .done
  | .step => .done
  | .getFramebuffer => .framebuffer s.getFramebuffer
  | .getDisplayMode => .displayMode s.getDisplayMode
  | .getTimers => .timers s.getTimers.1 s.getTimers.2

/-- A `step()` begins (R134): its cycles are to run; with `CYCLES_PER_STEP = 0` it has none and is over at
once with its timer tick. -/
def State.beginStep (s : State) : State :=
  if s.cyclesPerStep = 0 then s.tickTimers else { s with cyclesLeft := s.cyclesPerStep }

/-- What an operation does to the state, made between steps (R137). -/
def State.serve (s : State) : HostOp → State
  | .reset => s.hostReset
  | .loadProgram image => s.loadProgram image
  | .setKey k pressed => s.setKey k pressed
  | .step => s.beginStep
  | .getFramebuffer => s
  | .getDisplayMode => s
  | .getTimers => s

/-- The host makes its operations in order until one begins a `step()` with cycles to run (R71, R143). -/
def hostTurn : List HostOp → State → State
  | [], s => { s with hostOps := [] }
  | op :: rest, s =>
    if (s.serve op).cyclesLeft = 0 then hostTurn rest (s.serve op)
    else { s.serve op with hostOps := rest }

/-- The end of a cycle: the last cycle of a `step()` is followed by the timer tick and the host's turn; any
other cycle of a `step()` leaves one fewer to run; outside a `step()` nothing follows (R133, R134). -/
def State.endOfCycle (s : State) : State :=
  match s.cyclesLeft with
  | 0 => s
  | 1 => hostTurn s.hostOps { s.tickTimers with cyclesLeft := 0 }
  | n + 2 => { s with cyclesLeft := n + 1 }

/-- The diagnostic event of the next cycle, if it has one: the pair `(PC, op)` of R331. It changes no state. -/
def State.diagnosticEvent (s : State) : Option (Addr × Word) :=
  match decodeWord s.fetchWord with
  | .unrecognized w => some (s.pc, w)
  | _ => none

end Sys2Proof.Machine
end

