-- ==== Sys2Proof/Machine/Cycle.lean ====
section
/-! DEFINITION. The instruction cycle, `execute(n)` and the host's `step()` as the spec writes them
(spec/40_cycle_and_host.md R130, R133, R134). -/

namespace Sys2Proof.Machine

/-- `cycle()` (R130): fetch, decode, execute, advance. -/
def cycle (s : State) : Result := exec (decodeWord s.fetchWord) s

/-- A transition applied `n` times in sequence, stopping at the first that gives no next state. -/
def repeatTimes (f : State → Result) : Nat → State → Result
  | 0, s => .next s
  | n + 1, s =>
    match f s with
    | .next t => repeatTimes f n t
    | .fault r => .fault r
    | .refused r => .refused r

/-- `execute(n)` (R133). -/
def execute (n : Nat) (s : State) : Result := repeatTimes cycle n s

/-- `step()` of the host interface in one transition (R134): `CYCLES_PER_STEP` cycles, then the timer tick. -/
def hostStep (s : State) : Result :=
  match execute s.cyclesPerStep s with
  | .next t => .next t.tickTimers
  | .fault r => .fault r
  | .refused r => .refused r

end Sys2Proof.Machine
end

