-- ==== Sys2Proof/Machine/Step.lean ====
section
/-! DEFINITION. One step of the machine: one instruction cycle, then what its end brings. -/

namespace Sys2Proof.Machine

/-- One cycle (R130) and its end: inside a `step()` of the host the cycles are counted, and after the last one
the timers tick and the host acts (R134, R143). -/
def step (s : State) : Host.Outcome State Fault Refusal :=
  match cycle s with
  | .next t => .next t.endOfCycle
  | .fault r => .fault r
  | .refused r => .refused r

/-- `s` with the instruction whose bits are `w` stored at the `PC`, where the next cycle fetches (R63). It
stands for the host's `load_program` of a one-instruction program (R138). -/
def State.withFetchWord (s : State) (nbits w : Nat) : State :=
  s.memWriteBytes s.pc.toNat (bytesOfWord (BitVec.ofNat 16 (w % 2 ^ nbits)))

end Sys2Proof.Machine
end

