-- ==== Sys2Proof/Safety.lean ====
section
/-! DEFINITION. What holds of every state a claim may start from, and the parts of the state that claims
compare. -/

namespace Sys2Proof.Machine

/-- The model's invariant: memory is in its canonical form, and a `step()` in progress has at most
`CYCLES_PER_STEP` cycles left (R134). Every other constraint of spec/10_state.md is carried by a field's type. -/
def State.Inv (s : State) : Prop := s.mem.wf = true ∧ s.cyclesLeft ≤ s.cyclesPerStep

/-- The source's invariant on a well-formed program (R26): the `PC` and every return address are even. -/
def State.EvenPc (s : State) : Prop :=
  s.pc.toNat % 2 = 0 ∧ ∀ k, k < s.sp.val → ∀ a, s.stack[k]? = some a → a.toNat % 2 = 0

/-- Row `y`, column `x` is in the active region (R32). -/
def State.inActive (s : State) (y x : Nat) : Prop := y < modeHeight s.mode ∧ x < modeWidth s.mode

/-- The pixel `FB[y][x]`. -/
def State.pixel (s : State) (y x : Nat) : Bool := s.fb.pixel y x

/-! ### Parts of the state that an instruction leaves alone -/

/-- `V[0..15]` is unchanged. -/
def SameRegs (s t : State) : Prop := ∀ k, t.reg k = s.reg k

/-- Every byte of memory reads as before. -/
def SameMem (s t : State) : Prop := ∀ a, t.memRead a = s.memRead a

/-- `STACK` and `SP` are unchanged. -/
def SameStack (s t : State) : Prop := t.stack = s.stack ∧ t.sp = s.sp

/-- `DT` and `ST` are unchanged. -/
def SameTimers (s t : State) : Prop := t.dt = s.dt ∧ t.st = s.st

/-- `MODE` and every pixel are unchanged. -/
def SameDisplay (s t : State) : Prop := t.mode = s.mode ∧ ∀ y x, t.pixel y x = s.pixel y x

/-- `KEY` and the latch are unchanged. -/
def SameInput (s t : State) : Prop := t.keys = s.keys ∧ t.latch = s.latch

/-- The diagnostic counter is unchanged. -/
def SameCount (s t : State) : Prop := t.unknownCount = s.unknownCount

/-- The model's own fields are unchanged: no random byte was drawn and the host's side is as it was. -/
def SameHost (s t : State) : Prop :=
  t.draws = s.draws ∧ t.cyclesPerStep = s.cyclesPerStep ∧ t.cyclesLeft = s.cyclesLeft ∧ t.hostOps = s.hostOps

/-- Nothing but registers, `I` and the `PC` changed. -/
def OnlyRegsIPc (s t : State) : Prop :=
  SameMem s t ∧ SameStack s t ∧ SameTimers s t ∧ SameDisplay s t ∧ SameInput s t ∧ SameCount s t ∧ SameHost s t

end Sys2Proof.Machine
end

