-- ==== Sys2Proof/Certificates/Slice0/Obligations.lean ====
section
/-! DEFINITION. The statements for the provers, from the numbered rules of spec/. `OBLIGATIONS.json` says for
each which rule it formalises. Where a statement speaks of a parameter the spec leaves OPEN it holds for every
value; where it speaks of a value the model chose, its docstring names the log entry; where it rests on a choice the
spec marks as its own, its docstring names the decision (D1 to D36 of spec/92_eei_decisions.md). The encodings
(`EncodedBy`) are the rows of R97, which the spec marks as its own assignment (D17). -/

open Sys2Proof Sys2Proof.Machine

namespace Sys2Proof.Claim

/-- The instruction completes in the state: `exec` answers a next state, of which `P` holds. -/
def Answers (i : Instr) (s : State) (P : State → Prop) : Prop := ∃ t, exec i s = .next t ∧ P t

/-- The words `w` with `w &&& mask = pattern` decode to `build w` (a row of R97). -/
def EncodedBy (mask pattern : Word) (build : Word → Instr) : Prop :=
  ∀ w : Word, w &&& mask = pattern → decodeWord w = build w

/-- The program counter moved on by `k` bytes, modulo 4096 (R25, R131). -/
def PcPlus (k : Nat) (s t : State) : Prop := t.pc.toNat = (s.pc.toNat + k) % 4096

/-- A condition as the byte a flag holds (R22). -/
def bit (p : Prop) [Decidable p] : Nat := if p then 1 else 0

/-- Nothing but the registers and the `PC` changed. -/
def OnlyRegsPc (s t : State) : Prop := t.i = s.i ∧ OnlyRegsIPc s t

/-- Nothing but the `PC` changed. -/
def OnlyPc (s t : State) : Prop := SameRegs s t ∧ OnlyRegsPc s t

/-- Nothing but `I` and the `PC` changed. -/
def OnlyIPc (s t : State) : Prop := SameRegs s t ∧ OnlyRegsIPc s t

/-- Nothing but `STACK`, `SP` and the `PC` changed. -/
def OnlyStackPc (s t : State) : Prop :=
  SameRegs s t ∧ t.i = s.i ∧ SameMem s t ∧ SameTimers s t ∧ SameDisplay s t ∧ SameInput s t ∧ SameCount s t ∧
    SameHost s t

/-- Nothing but memory, `I` and the `PC` changed. -/
def OnlyMemIPc (s t : State) : Prop :=
  SameRegs s t ∧ SameStack s t ∧ SameTimers s t ∧ SameDisplay s t ∧ SameInput s t ∧ SameCount s t ∧ SameHost s t

/-- Nothing but registers, pixels and the `PC` changed. -/
def OnlyRegsPixelsPc (s t : State) : Prop :=
  t.i = s.i ∧ t.mode = s.mode ∧ SameMem s t ∧ SameStack s t ∧ SameTimers s t ∧ SameInput s t ∧ SameCount s t ∧
    SameHost s t

/-- Nothing but pixels and the `PC` changed. -/
def OnlyPixelsPc (s t : State) : Prop := SameRegs s t ∧ OnlyRegsPixelsPc s t

/-- Register `x` holds a number, every other register is unchanged. -/
def SetsReg (x : RegIdx) (value : Nat) (s t : State) : Prop :=
  (t.reg x).toNat = value ∧ ∀ k, k ≠ x → t.reg k = s.reg k

/-- The result in `V[x]` and the flag in `VF`, the flag winning when `x = 15`; every other register is
unchanged (R202). -/
def SetsRegAndFlag (x : RegIdx) (value flag : Nat) (s t : State) : Prop :=
  (x ≠ 15 → (t.reg x).toNat = value) ∧ (t.reg 15).toNat = flag ∧
    ∀ k, k ≠ x → k ≠ 15 → t.reg k = s.reg k

end Sys2Proof.Claim

open Sys2Proof.Claim

/-! ### Encoding (spec/30_encoding.md) -/

/-- Words written out from the spec's encodings and examples decode to the instruction they stand for: the
source's own program 6005 6103 8014, and at least one word of each of the 16 families. -/
def Obligations.WordsOfTheSpecDecode : Prop :=
  decodeWord 0x6005 = .ldImm 0 5 ∧ decodeWord 0x6103 = .ldImm 1 3 ∧ decodeWord 0x8014 = .addReg 0 1 ∧
  decodeWord 0x00E0 = .cls ∧ decodeWord 0x01E0 = .cls ∧ decodeWord 0x0AEE = .ret ∧ decodeWord 0x00C3 = .scd 3 ∧
  decodeWord 0x1234 = .jp 0x234 ∧ decodeWord 0x2210 = .call 0x210 ∧ decodeWord 0x3342 = .seImm 3 0x42 ∧
  decodeWord 0x4A7F = .sneImm 10 0x7F ∧ decodeWord 0x7202 = .addImm 2 2 ∧ decodeWord 0x9120 = .sneReg 1 2 ∧
  decodeWord 0xA300 = .ldI 0x300 ∧
  decodeWord 0x5127 = .seReg 1 2 ∧ decodeWord 0x8306 = .shr 3 ∧ decodeWord 0xB300 = .jpV0 0x300 ∧
  decodeWord 0xC30F = .rnd 3 0x0F ∧ decodeWord 0xD125 = .drw 1 2 5 ∧ decodeWord 0xE09E = .skp 0 ∧
  decodeWord 0xF30A = .ldVxK 3 ∧ decodeWord 0xF155 = .stRegs 1 ∧
  decodeWord 0x00FD = .unrecognized 0x00FD ∧ decodeWord 0x8128 = .unrecognized 0x8128 ∧
  decodeWord 0xF075 = .unrecognized 0xF075

/-- The bytes of every well-formed instruction decode to it, and the decoder takes exactly those two bytes. -/
def Obligations.DecodeOfEncodeIsTheInstruction : Prop :=
  ∀ (i : Instr) (rest : List Byte), i.wf = true →
    (encodeBytes i).length = 2 ∧ decode (encodeBytes i ++ rest) = .ok (i, rest)

/-- The other direction: a word decodes to a well-formed instruction whose encoding is the word with the
ignored bits of R100 cleared. (The spec has no encoder: that ours writes 0 in these bits is the model's choice, log
entry 11.) -/
def Obligations.EncodeOfDecodeKeepsTheExaminedBits : Prop :=
  ∀ w : Word, (decodeWord w).wf = true ∧ encode (decodeWord w) = w &&& examinedBits (decodeWord w)

/-- R97: the rows are disjoint, and the decoder reads the instruction of the row a word selects. (The patterns are the
spec's own decision D17, the keys of the second dispatch D16.) -/
def Obligations.OpcodeMapSelectsTheInstruction : Prop :=
  (∀ w : Word, ∀ row ∈ opcodeMap, w &&& row.mask = row.pattern → decodeWord w = row.build w) ∧
  opcodeMap.Pairwise fun a b => ∀ w : Word, ¬(w &&& a.mask = a.pattern ∧ w &&& b.mask = b.pattern)

/-- R98: the words that select no row of R97 are exactly those of its list; they decode as unrecognized and
change nothing but `UNKNOWN_COUNT` and the `PC`. Bits 11-8 do not matter, so each family has 16 times as many of them
as low bytes that are in the list, the number R98 gives. (The words no row names: the spec's own decision D25.) -/
def Obligations.UnrecognizedWordsSelectNoRow : Prop :=
  (∀ w : Word, ((∀ row ∈ opcodeMap, w &&& row.mask ≠ row.pattern) ↔ unrecognizedWord w = true) ∧
    (decodeWord w = .unrecognized w ↔ unrecognizedWord w = true)) ∧
  (∀ (w : Word) (s : State), unrecognizedWord w = true → Answers (decodeWord w) s fun t =>
    PcPlus 2 s t ∧ t = { s with unknownCount := t.unknownCount, pc := t.pc }) ∧
  (∀ (f x : BitVec 4) (nn : Byte), unrecognizedWord (f ++ x ++ nn) = unrecognizedWord (f ++ 0x0#4 ++ nn)) ∧
  ∀ f : BitVec 4, 16 * (List.range 256).countP (fun nn => unrecognizedWord (f ++ 0x0#4 ++ BitVec.ofNat 8 nn)) =
    (if f = 0x0 then 3744 else if f = 0x8 then 1792 else if f = 0xE then 4064 else if f = 0xF then 3936 else 0)

/-- R99: every word selects one row or is unrecognized, and executes to completion from every state. -/
def Obligations.EveryWordExecutesToCompletion : Prop :=
  ∀ w : Word,
    ((∃ row ∈ opcodeMap, w &&& row.mask = row.pattern ∧ decodeWord w = row.build w) ∨
      ((∀ row ∈ opcodeMap, w &&& row.mask ≠ row.pattern) ∧ decodeWord w = .unrecognized w)) ∧
    ∀ s : State, ∃ t, exec (decodeWord w) s = .next t

/-- R100: the ignored bits take any value without changing the result. (The spec's own derivation from R94 to R96, D16.) -/
def Obligations.IgnoredBitsDoNotChangeTheResult : Prop :=
  ∀ (x y n : BitVec 4) (nn : Byte) (s : State),
    decodeWord (0x5#4 ++ x ++ y ++ n) = decodeWord (0x5#4 ++ x ++ y ++ 0x0#4) ∧
    decodeWord (0x9#4 ++ x ++ y ++ n) = decodeWord (0x9#4 ++ x ++ y ++ 0x0#4) ∧
    exec (decodeWord (0x0#4 ++ x ++ nn)) s = exec (decodeWord (0x0#4 ++ 0x0#4 ++ nn)) s ∧
    decodeWord (0x8#4 ++ x ++ y ++ 0x6#4) = decodeWord (0x8#4 ++ x ++ 0x0#4 ++ 0x6#4) ∧
    decodeWord (0x8#4 ++ x ++ y ++ 0xE#4) = decodeWord (0x8#4 ++ x ++ 0x0#4 ++ 0xE#4)

/-! ### The cycle (spec/40_cycle_and_host.md) -/

/-- When the two bytes at the `PC` decode to an instruction, a step is that instruction's `exec`, followed by
the end of the cycle: nothing outside a host `step()`, one cycle fewer inside one, and after its last cycle the
timer tick and the host's turn (the cycle count and the host's waiting operations are the model's own fields,
log entry 2). -/
def Obligations.StepRunsTheDecodedInstruction : Prop :=
  ∀ (s t : State) (i : Instr),
    decode [s.memRead s.pc.toNat, s.memRead (s.pc.toNat + 1)] = .ok (i, []) → exec i s = .next t →
    (t.cyclesLeft = 0 → step s = .next t) ∧
    (∀ n, t.cyclesLeft = n + 2 → step s = .next { t with cyclesLeft := n + 1 }) ∧
    (t.cyclesLeft = 1 → step s = .next (hostTurn t.hostOps { t.tickTimers with cyclesLeft := 0 }))

/-- R63: the instruction is read big-endian at the `PC`, whatever its alignment, and the second byte of one at
0xFFF is the byte at 0x000. -/
def Obligations.FetchIsBigEndianAndWraps : Prop :=
  ∀ s : State,
    s.fetchWord.toNat = 256 * (s.memRead s.pc.toNat).toNat + (s.memRead ((s.pc.toNat + 1) % 4096)).toNat ∧
    cycle s = exec (decodeWord s.fetchWord) s

/-- The `PC_next` of R131's table, before it is taken modulo 4096. -/
def Sys2Proof.Claim.pcNext (i : Instr) (s : State) : Nat :=
  match i with
  | .seImm x nn => if s.reg x = nn then s.pc.toNat + 4 else s.pc.toNat + 2
  | .sneImm x nn => if s.reg x = nn then s.pc.toNat + 2 else s.pc.toNat + 4
  | .seReg x y => if s.reg x = s.reg y then s.pc.toNat + 4 else s.pc.toNat + 2
  | .sneReg x y => if s.reg x = s.reg y then s.pc.toNat + 2 else s.pc.toNat + 4
  | .skp x => if s.keys[(s.reg x).toNat]? = some true then s.pc.toNat + 4 else s.pc.toNat + 2
  | .sknp x => if s.keys[(s.reg x).toNat]? = some true then s.pc.toNat + 2 else s.pc.toNat + 4
  | .jp nnn => nnn.toNat
  | .call nnn => if s.sp.val < 16 then nnn.toNat else s.pc.toNat + 2
  | .ret => if 0 < s.sp.val then (s.stack[s.sp.val - 1]?.getD 0).toNat + 2 else s.pc.toNat + 2
  | .jpV0 nnn => (s.reg 0).toNat + nnn.toNat
  | .ldVxK _ => if s.latch.pending then s.pc.toNat + 2 else s.pc.toNat
  | _ => s.pc.toNat + 2

/-- R131: the next program counter of every instruction. -/
def Obligations.NextPcFollowsTheTable : Prop :=
  ∀ (i : Instr) (s : State), Answers i s fun t => t.pc.toNat = pcNext i s % 4096

/-- R331: an instruction word of R98's list is counted and skipped and changes nothing else; a cycle that fetches one
does just that, and its diagnostic event is the pair of its address and the word. (The counter and the event are the spec's
own decision D24.) -/
def Obligations.UnrecognizedWordIsCountedAndSkipped : Prop :=
  (∀ (w : Word) (s : State), unrecognizedWord w = true → Answers (.unrecognized w) s fun t =>
    t.unknownCount.toNat = (s.unknownCount.toNat + 1) % 2 ^ 32 ∧ PcPlus 2 s t ∧
      t = { s with unknownCount := t.unknownCount, pc := t.pc }) ∧
  ∀ s : State, unrecognizedWord s.fetchWord = true →
    cycle s = exec (.unrecognized s.fetchWord) s ∧ s.diagnosticEvent = some (s.pc, s.fetchWord)

/-! ### Control transfer (spec/41_control_flow.md) -/

/-- R160: `RET` pops the last return address and continues after its `CALL`; on an empty stack it only
advances (the spec's own decision D7). The popped entry keeps its value (D32). -/
def Obligations.RetReturnsAfterTheCall : Prop :=
  EncodedBy 0xF0FF 0x00EE (fun _ => .ret) ∧
  ∀ s : State, Answers .ret s fun t =>
    (if 0 < s.sp.val then
      t.sp.val = s.sp.val - 1 ∧ t.pc.toNat = ((s.stack[s.sp.val - 1]?.getD 0).toNat + 2) % 4096
    else t.sp = s.sp ∧ PcPlus 2 s t) ∧
    t.stack = s.stack ∧ OnlyStackPc s t

/-- R167: `JP V0, nnn` changes the `PC` alone, to `V0 + nnn` modulo 4096 (the wrap is the spec's own decision D3). -/
def Obligations.JumpWithOffsetWraps : Prop :=
  EncodedBy 0xF000 0xB000 (fun w => .jpV0 (opNNN w)) ∧
  ∀ (s : State) (nnn : Addr), Answers (.jpV0 nnn) s fun t =>
    t.pc.toNat = ((s.reg 0).toNat + nnn.toNat) % 4096 ∧ OnlyPc s t

/-- R162: `CALL` pushes its own address and jumps; with a full stack it only advances (the spec's own decision D6). -/
def Obligations.CallPushesItsOwnAddress : Prop :=
  EncodedBy 0xF000 0x2000 (fun w => .call (opNNN w)) ∧
  ∀ (s : State) (nnn : Addr), Answers (.call nnn) s fun t =>
    (if s.sp.val < 16 then
      t.sp.val = s.sp.val + 1 ∧ t.stack[s.sp.val]? = some s.pc ∧
        (∀ k, k ≠ s.sp.val → t.stack[k]? = s.stack[k]?) ∧ t.pc = nnn
    else t.stack = s.stack ∧ t.sp = s.sp ∧ PcPlus 2 s t) ∧
    OnlyStackPc s t

/-- R161 and R163 to R166: the jump and the skips change the `PC` alone, the jump to its target as it is, the skips
by 4 when the condition holds and by 2 when it does not. -/
def Obligations.JumpAndSkipsChangeOnlyThePc : Prop :=
  EncodedBy 0xF000 0x1000 (fun w => .jp (opNNN w)) ∧
  EncodedBy 0xF000 0x3000 (fun w => .seImm (opX w) (opNN w)) ∧
  EncodedBy 0xF000 0x4000 (fun w => .sneImm (opX w) (opNN w)) ∧
  EncodedBy 0xF000 0x5000 (fun w => .seReg (opX w) (opY w)) ∧
  EncodedBy 0xF000 0x9000 (fun w => .sneReg (opX w) (opY w)) ∧
  ∀ (s : State) (nnn : Addr) (x y : RegIdx) (nn : Byte),
    (Answers (.jp nnn) s fun t => t.pc = nnn ∧ OnlyPc s t) ∧
    (Answers (.seImm x nn) s fun t => PcPlus (if s.reg x = nn then 4 else 2) s t ∧ OnlyPc s t) ∧
    (Answers (.sneImm x nn) s fun t => PcPlus (if s.reg x = nn then 2 else 4) s t ∧ OnlyPc s t) ∧
    (Answers (.seReg x y) s fun t => PcPlus (if s.reg x = s.reg y then 4 else 2) s t ∧ OnlyPc s t) ∧
    Answers (.sneReg x y) s fun t => PcPlus (if s.reg x = s.reg y then 2 else 4) s t ∧ OnlyPc s t

/-- R332: with a full stack `CALL`, and with an empty one `RET`, changes nothing but the `PC`, to `PC + 2`. -/
def Obligations.StackOverflowAndUnderflowAreAbsorbed : Prop :=
  ∀ (s : State) (nnn : Addr),
    (s.sp.val = 16 → ∃ t, exec (.call nnn) s = .next t ∧ PcPlus 2 s t ∧ t = { s with pc := t.pc }) ∧
    (s.sp.val = 0 → ∃ t, exec .ret s = .next t ∧ PcPlus 2 s t ∧ t = { s with pc := t.pc })

/-- A call followed immediately by a return comes back to the instruction after the call, with the stack depth
and every live stack entry as before (R168, the spec's own derivation; S5). -/
def Obligations.CallThenReturnComesBack : Prop :=
  ∀ (s : State) (nnn : Addr), s.sp.val < 16 →
    ∃ t u, exec (.call nnn) s = .next t ∧ exec .ret t = .next u ∧ PcPlus 2 s u ∧ u.sp = s.sp ∧
      (∀ k, k < s.sp.val → u.stack[k]? = s.stack[k]?) ∧ OnlyStackPc s u

/-- Two states that differ only in stack entries at or above `SP`. -/
def Sys2Proof.Claim.SameButDeadStack (s s' : State) : Prop :=
  s' = { s with stack := s'.stack } ∧ ∀ k, k < s.sp.val → s'.stack[k]? = s.stack[k]?

/-- R28: stack entries at or above `SP` are observable by no instruction and by no operation of the host, the
operations that follow one another included (the spec's own decision D32). That the two executions of a `RND` are given
the same byte is the model's choice, log entry 1. -/
def Obligations.DeadStackEntriesAreNotObservable : Prop :=
  ∀ s s' : State, SameButDeadStack s s' →
    (∀ i : Instr, ∃ t t', exec i s = .next t ∧ exec i s' = .next t' ∧ SameButDeadStack t t') ∧
    ∀ op : HostOp, s'.reply op = s.reply op ∧ SameButDeadStack (s.serve op) (s'.serve op)

/-- R26: from a state whose `PC` and return addresses are even, every instruction leads to another such state,
but for a jump or call whose target is odd (the spec's own derivation, D31). -/
def Obligations.PcStaysEvenWithEvenTargets : Prop :=
  ∀ (i : Instr) (s : State), s.EvenPc →
    (∀ nnn, i = .jp nnn ∨ i = .call nnn → nnn.toNat % 2 = 0) →
    (∀ nnn, i = .jpV0 nnn → ((s.reg 0).toNat + nnn.toNat) % 2 = 0) →
    Answers i s State.EvenPc

/-! ### Register arithmetic (spec/42_arithmetic.md) -/

/-- R190 and R191: load and add immediate; no flag. -/
def Obligations.ImmediateLoadAndAdd : Prop :=
  EncodedBy 0xF000 0x6000 (fun w => .ldImm (opX w) (opNN w)) ∧
  EncodedBy 0xF000 0x7000 (fun w => .addImm (opX w) (opNN w)) ∧
  ∀ (s : State) (x : RegIdx) (nn : Byte),
    (Answers (.ldImm x nn) s fun t => SetsReg x nn.toNat s t ∧ PcPlus 2 s t ∧ OnlyRegsPc s t) ∧
    Answers (.addImm x nn) s fun t =>
      SetsReg x (((s.reg x).toNat + nn.toNat) % 256) s t ∧ PcPlus 2 s t ∧ OnlyRegsPc s t

/-- `V[x]` holds, bit by bit, a function of what `V[x]` and `V[y]` held; nothing else but the `PC` changed. -/
def Sys2Proof.Claim.SetsRegBitwise (f : Bool → Bool → Bool) (x y : RegIdx) (s t : State) : Prop :=
  (∀ k, k < 8 → (t.reg x).getLsbD k = f ((s.reg x).getLsbD k) ((s.reg y).getLsbD k)) ∧
    (∀ k, k ≠ x → t.reg k = s.reg k) ∧ PcPlus 2 s t ∧ OnlyRegsPc s t

/-- R192 to R195: move, OR, AND and XOR, bit by bit; no flag is reset. -/
def Obligations.MovesAndLogicBitByBit : Prop :=
  EncodedBy 0xF00F 0x8000 (fun w => .ldReg (opX w) (opY w)) ∧
  EncodedBy 0xF00F 0x8001 (fun w => .orReg (opX w) (opY w)) ∧
  EncodedBy 0xF00F 0x8002 (fun w => .andReg (opX w) (opY w)) ∧
  EncodedBy 0xF00F 0x8003 (fun w => .xorReg (opX w) (opY w)) ∧
  ∀ (s : State) (x y : RegIdx),
    Answers (.ldReg x y) s (SetsRegBitwise (fun _ b => b) x y s) ∧
    Answers (.orReg x y) s (SetsRegBitwise (fun a b => a || b) x y s) ∧
    Answers (.andReg x y) s (SetsRegBitwise (fun a b => a && b) x y s) ∧
    Answers (.xorReg x y) s (SetsRegBitwise (fun a b => a != b) x y s)

/-- R196: `ADD Vx, Vy` gives the sum modulo 256 and the carry. -/
def Obligations.AddGivesSumAndCarry : Prop :=
  EncodedBy 0xF00F 0x8004 (fun w => .addReg (opX w) (opY w)) ∧
  ∀ (s : State) (x y : RegIdx), Answers (.addReg x y) s fun t =>
    SetsRegAndFlag x (((s.reg x).toNat + (s.reg y).toNat) % 256)
      (bit ((s.reg x).toNat + (s.reg y).toNat > 255)) s t ∧
    PcPlus 2 s t ∧ OnlyRegsPc s t

/-- R197 and R199: `SUB` and `SUBN` give the difference modulo 256 and not-borrow. -/
def Obligations.SubtractionsGiveDifferenceAndNotBorrow : Prop :=
  EncodedBy 0xF00F 0x8005 (fun w => .sub (opX w) (opY w)) ∧
  EncodedBy 0xF00F 0x8007 (fun w => .subn (opX w) (opY w)) ∧
  ∀ (s : State) (x y : RegIdx),
    (Answers (.sub x y) s fun t =>
      SetsRegAndFlag x (((s.reg x).toNat + 256 - (s.reg y).toNat) % 256)
        (bit ((s.reg x).toNat ≥ (s.reg y).toNat)) s t ∧ PcPlus 2 s t ∧ OnlyRegsPc s t) ∧
    Answers (.subn x y) s fun t =>
      SetsRegAndFlag x (((s.reg y).toNat + 256 - (s.reg x).toNat) % 256)
        (bit ((s.reg y).toNat ≥ (s.reg x).toNat)) s t ∧ PcPlus 2 s t ∧ OnlyRegsPc s t

/-- R198 and R200: `SHR` and `SHL` shift `Vx` by one and give the bit shifted out. -/
def Obligations.ShiftsGiveTheBitShiftedOut : Prop :=
  EncodedBy 0xF00F 0x8006 (fun w => .shr (opX w)) ∧
  EncodedBy 0xF00F 0x800E (fun w => .shl (opX w)) ∧
  ∀ (s : State) (x : RegIdx),
    (Answers (.shr x) s fun t =>
      SetsRegAndFlag x ((s.reg x).toNat / 2) ((s.reg x).toNat % 2) s t ∧ PcPlus 2 s t ∧ OnlyRegsPc s t) ∧
    Answers (.shl x) s fun t =>
      SetsRegAndFlag x ((s.reg x).toNat * 2 % 256) ((s.reg x).toNat / 128) s t ∧ PcPlus 2 s t ∧ OnlyRegsPc s t

/-- R202: when `x = 15`, `VF` ends as the flag of the operands' values at the start, and the result is lost. (The
flag written last is the spec's own decision D8; for `ADD I, Vx` the threshold 0xFFF and the 0 are its decision D9.) -/
def Obligations.FlagIsWrittenLast : Prop :=
  ∀ (s : State) (y : RegIdx),
    (Answers (.addReg 15 y) s fun t => (t.reg 15).toNat = bit ((s.reg 15).toNat + (s.reg y).toNat > 255)) ∧
    (Answers (.sub 15 y) s fun t => (t.reg 15).toNat = bit ((s.reg 15).toNat ≥ (s.reg y).toNat)) ∧
    (Answers (.shr 15) s fun t => (t.reg 15).toNat = (s.reg 15).toNat % 2) ∧
    (Answers (.subn 15 y) s fun t => (t.reg 15).toNat = bit ((s.reg y).toNat ≥ (s.reg 15).toNat)) ∧
    (Answers (.shl 15) s fun t => (t.reg 15).toNat = (s.reg 15).toNat / 128) ∧
    ((addIWith true 15 s).reg 15).toNat = bit (s.i.toNat + (s.reg 15).toNat > 0xFFF)

/-- R201: `RND` takes a fresh byte of the oracle and keeps the bits of its mask. The byte is free: the
statement holds whatever the oracle gives (log entry 1; the spec's own decision D29). -/
def Obligations.RandomByteUnderTheMask : Prop :=
  EncodedBy 0xF000 0xC000 (fun w => .rnd (opX w) (opNN w)) ∧
  ∀ (s : State) (x : RegIdx) (nn : Byte), Answers (.rnd x nn) s fun t =>
    t.reg x = randomByte s.draws &&& nn ∧ (nn = 0 → t.reg x = 0) ∧ (nn = 0xFF → t.reg x = randomByte s.draws) ∧
    (∀ k, k ≠ x → t.reg k = s.reg k) ∧ t.draws = s.draws + 1 ∧ PcPlus 2 s t ∧
    t = { s with v := t.v, pc := t.pc, draws := t.draws }

/-- The destination register(s) an instruction may write (R21, R22): `x` where the instruction writes `V[x]`,
`V0` to `Vx` for `LD Vx, [I]`, and `VF` where it sets a flag. -/
def Sys2Proof.Claim.writesReg (i : Instr) (k : RegIdx) : Prop :=
  match i with
  | .ldImm x _ => k = x
  | .addImm x _ => k = x
  | .ldReg x _ => k = x
  | .orReg x _ => k = x
  | .andReg x _ => k = x
  | .xorReg x _ => k = x
  | .rnd x _ => k = x
  | .ldVxDt x => k = x
  | .ldVxK x => k = x
  | .ldRegs x => k ≤ x
  | .addReg x _ => k = x ∨ k = 15
  | .sub x _ => k = x ∨ k = 15
  | .subn x _ => k = x ∨ k = 15
  | .shr x => k = x ∨ k = 15
  | .shl x => k = x ∨ k = 15
  | .drw _ _ _ => k = 15
  | .addI _ => k = 15 ∧ quirkFx1eVf = true
  | _ => False

/-- The instructions that write `VF` as a flag (R22). -/
def Sys2Proof.Claim.setsFlag : Instr → Bool
  | .addReg _ _ => true
  | .sub _ _ => true
  | .subn _ _ => true
  | .shr _ => true
  | .shl _ => true
  | .drw _ _ _ => true
  | .addI _ => quirkFx1eVf
  | _ => false

/-- R21 and R22 over all instructions: a register changes only under an instruction that names it as its
destination or writes `VF` as a flag, and a flag is 0 or 1. -/
def Obligations.OnlyDestinationsAndFlagsAreWritten : Prop :=
  ∀ (i : Instr) (s : State), Answers i s fun t =>
    (∀ k, t.reg k = s.reg k ∨ writesReg i k) ∧ (setsFlag i = true → t.reg 15 = 0 ∨ t.reg 15 = 1)

/-! ### Address register and memory (spec/43_address_and_memory.md, spec/20_memory.md) -/

/-- R230: `LD I, nnn` sets `I` to the address, upper bits 0. -/
def Obligations.LoadAddressRegister : Prop :=
  EncodedBy 0xF000 0xA000 (fun w => .ldI (opNNN w)) ∧
  ∀ (s : State) (nnn : Addr), Answers (.ldI nnn) s fun t =>
    t.i.toNat = nnn.toNat ∧ PcPlus 2 s t ∧ OnlyIPc s t

/-- R231: `ADD I, Vx` adds modulo 2^16; under `QUIRK_FX1E_VF` it sets `VF` to whether the sum passes 0xFFF, else
it leaves `VF`. Said for both values of the parameter, and of `exec` for the one the instance has. (Threshold, the 0
and the wrap of `I`: the spec's own decisions D9 and D4.) -/
def Obligations.AddToAddressRegister : Prop :=
  EncodedBy 0xF0FF 0xF01E (fun w => .addI (opX w)) ∧
  ∀ (s : State) (x : RegIdx),
    exec (.addI x) s = .next (addIWith quirkFx1eVf x s) ∧
    ∀ quirk : Bool, ∃ t, addIWith quirk x s = t ∧
      t.i.toNat = (s.i.toNat + (s.reg x).toNat) % 65536 ∧
      (if quirk then (t.reg 15).toNat = bit (s.i.toNat + (s.reg x).toNat > 0xFFF) else t.reg 15 = s.reg 15) ∧
      (∀ k, k ≠ 15 → t.reg k = s.reg k) ∧ PcPlus 2 s t ∧ OnlyRegsIPc s t

/-- R232 and R233: `LD F` and `LD HF` point `I` at `base + size * Vx`, without a mask and without a wrap, for
every legal pair of font bases (the spec's own decisions D18 and D19). -/
def Obligations.GlyphAddresses : Prop :=
  EncodedBy 0xF0FF 0xF029 (fun w => .ldF (opX w)) ∧
  EncodedBy 0xF0FF 0xF030 (fun w => .ldHf (opX w)) ∧
  ∀ (s : State) (x : RegIdx),
    (Answers (.ldF x) s fun t =>
      t.i.toNat = smallFontBase + 5 * (s.reg x).toNat ∧ PcPlus 2 s t ∧ OnlyIPc s t) ∧
    Answers (.ldHf x) s fun t =>
      t.i.toNat = bigFontBase + 10 * (s.reg x).toNat ∧ PcPlus 2 s t ∧ OnlyIPc s t

/-- R234: `LD B, Vx` stores the three decimal digits, hundreds at `I`, and changes no other byte; `I` stays. (The order
is the spec's own decision D36, the wrap D2.) -/
def Obligations.BcdStoresThreeDigits : Prop :=
  EncodedBy 0xF0FF 0xF033 (fun w => .ldB (opX w)) ∧
  ∀ (s : State) (x : RegIdx), Answers (.ldB x) s fun t =>
    (t.memRead (s.i.toNat % 4096)).toNat = (s.reg x).toNat / 100 ∧
    (t.memRead ((s.i.toNat + 1) % 4096)).toNat = (s.reg x).toNat / 10 % 10 ∧
    (t.memRead ((s.i.toNat + 2) % 4096)).toNat = (s.reg x).toNat % 10 ∧
    (∀ a, a < 4096 → a ≠ s.i.toNat % 4096 → a ≠ (s.i.toNat + 1) % 4096 → a ≠ (s.i.toNat + 2) % 4096 →
      t.memRead a = s.memRead a) ∧
    t.i = s.i ∧ PcPlus 2 s t ∧ OnlyMemIPc s t

/-- R235: `LD [I], Vx` stores `V0` to `Vx` from `I` on and moves `I` past them; no other byte changes. -/
def Obligations.StoreRegisters : Prop :=
  EncodedBy 0xF0FF 0xF055 (fun w => .stRegs (opX w)) ∧
  ∀ (s : State) (x : RegIdx), Answers (.stRegs x) s fun t =>
    (∀ k, k ≤ x → t.memRead ((s.i.toNat + k.val) % 4096) = s.reg k) ∧
    (∀ a, a < 4096 → (∀ k, k ≤ x → a ≠ (s.i.toNat + k.val) % 4096) → t.memRead a = s.memRead a) ∧
    t.i.toNat = (s.i.toNat + x.val + 1) % 65536 ∧ PcPlus 2 s t ∧ OnlyMemIPc s t

/-- R236: `LD Vx, [I]` loads `V0` to `Vx` from `I` on and moves `I` past them; memory stays. (The move of `I` is
the spec's own decision D20.) -/
def Obligations.LoadRegisters : Prop :=
  EncodedBy 0xF0FF 0xF065 (fun w => .ldRegs (opX w)) ∧
  ∀ (s : State) (x : RegIdx), Answers (.ldRegs x) s fun t =>
    (∀ k, k ≤ x → t.reg k = s.memRead ((s.i.toNat + k.val) % 4096)) ∧
    (∀ k, x < k → t.reg k = s.reg k) ∧
    t.i.toNat = (s.i.toNat + x.val + 1) % 65536 ∧ PcPlus 2 s t ∧ OnlyRegsIPc s t

/-- Two memories in the canonical form that read the same at every address are the same list (the form is the
model's own, log entry 3). -/
def Obligations.CanonicalMemoryIsUnique : Prop :=
  ∀ m n : Memory, m.wf = true → n.wf = true → (∀ a, a < 4096 → m.read a = n.read a) → m = n

/-- How far past `I` an address lies, modulo 4096. -/
def Sys2Proof.Claim.pastI (s : State) (a : Nat) : Nat := (a + 4096 - s.i.toNat % 4096) % 4096

/-- The byte at an address after `LD [I], Vx` (R235): the register stored there, or the byte that was there. -/
def Sys2Proof.Claim.byteAfterStore (x : RegIdx) (s : State) (a : Nat) : Byte :=
  if h : pastI s a ≤ x.val then s.reg ⟨pastI s a, Nat.lt_of_le_of_lt h x.isLt⟩ else s.memRead a

/-- The byte at an address after `LD B, Vx` (R234): the digit stored there, or the byte that was there. -/
def Sys2Proof.Claim.byteAfterBcd (x : RegIdx) (s : State) (a : Nat) : Byte :=
  if pastI s a = 0 then BitVec.ofNat 8 ((s.reg x).toNat / 100)
  else if pastI s a = 1 then BitVec.ofNat 8 ((s.reg x).toNat / 10 % 10)
  else if pastI s a = 2 then BitVec.ofNat 8 ((s.reg x).toNat % 10)
  else s.memRead a

/-- R74: the cycle after `LD [I], Vx` or `LD B, Vx` executes the bytes the store left at the next instruction, wherever
`I` points and whether the store covers both bytes, one of them or neither. (The spec's own derivation; the order of the
digits is its decision D36, the wrap of addresses D2.) -/
def Obligations.StoredBytesAreFetchedNext : Prop :=
  ∀ (s : State) (x : RegIdx),
    (Answers (.stRegs x) s fun t => cycle t = exec (decodeWord (wordOfBytes
      (byteAfterStore x s (s.pc.toNat + 2)) (byteAfterStore x s (s.pc.toNat + 3)))) t) ∧
    Answers (.ldB x) s fun t => cycle t = exec (decodeWord (wordOfBytes
      (byteAfterBcd x s (s.pc.toNat + 2)) (byteAfterBcd x s (s.pc.toNat + 3)))) t

/-! ### Display (spec/44_display.md) -/

/-- R261: `CLS` clears the active region and no other pixel. -/
def Obligations.ClearZeroesTheActiveRegion : Prop :=
  EncodedBy 0xF0FF 0x00E0 (fun _ => .cls) ∧
  ∀ s : State, Answers .cls s fun t =>
    (∀ y x, s.inActive y x → t.pixel y x = false) ∧ (∀ y x, ¬s.inActive y x → t.pixel y x = s.pixel y x) ∧
    PcPlus 2 s t ∧ OnlyPixelsPc s t

/-- R262: `SCD n` moves the 128 by 64 region down in `Extended` mode and does nothing in `Standard` mode (the
spec's own decision D15). -/
def Obligations.ScrollDownMovesRows : Prop :=
  EncodedBy 0xF0F0 0x00C0 (fun w => .scd (opN w)) ∧
  ∀ (s : State) (n : BitVec 4), Answers (.scd n) s fun t =>
    (∀ y x, y < 64 → x < 128 → t.pixel y x =
      (if s.mode = .extended then (if n.toNat ≤ y then s.pixel (y - n.toNat) x else false) else s.pixel y x)) ∧
    PcPlus 2 s t ∧ OnlyPixelsPc s t

/-- R263 and R264: `SCR` and `SCL` move the 128 by 64 region by `SCROLL_LR_PIXELS` = 4 columns in `Extended` mode
and do nothing in `Standard` mode (the spec's own decisions D14 and D15). -/
def Obligations.HorizontalScrollsMoveColumns : Prop :=
  EncodedBy 0xF0FF 0x00FB (fun _ => .scr) ∧
  EncodedBy 0xF0FF 0x00FC (fun _ => .scl) ∧
  ∀ s : State,
    (Answers .scr s fun t =>
      (∀ y x, y < 64 → x < 128 → t.pixel y x =
        (if s.mode = .extended then (if 4 ≤ x then s.pixel y (x - 4) else false) else s.pixel y x)) ∧
      PcPlus 2 s t ∧ OnlyPixelsPc s t) ∧
    Answers .scl s fun t =>
      (∀ y x, y < 64 → x < 128 → t.pixel y x =
        (if s.mode = .extended then (if x + 4 < 128 then s.pixel y (x + 4) else false) else s.pixel y x)) ∧
      PcPlus 2 s t ∧ OnlyPixelsPc s t

/-- The mode is set; no pixel and nothing else but the `PC` changed. -/
def Sys2Proof.Claim.OnlySetsMode (m : DisplayMode) (s t : State) : Prop :=
  t.mode = m ∧ (∀ y x, t.pixel y x = s.pixel y x) ∧ PcPlus 2 s t ∧ SameRegs s t ∧ t.i = s.i ∧ SameMem s t ∧
    SameStack s t ∧ SameTimers s t ∧ SameInput s t ∧ SameCount s t ∧ SameHost s t

/-- R265 and R266: `LOW` and `HIGH` set the mode and keep every pixel of the storage (the spec's own decisions
D17 and D13). -/
def Obligations.ModeSwitchKeepsPixels : Prop :=
  EncodedBy 0xF0FF 0x00FE (fun _ => .low) ∧
  EncodedBy 0xF0FF 0x00FF (fun _ => .high) ∧
  ∀ s : State, Answers .low s (OnlySetsMode .standard s) ∧ Answers .high s (OnlySetsMode .extended s)

/-- R270's table: the rows and columns of a sprite. -/
def Sys2Proof.Claim.rowsCols (d : Dxy0Standard) (n : BitVec 4) (m : DisplayMode) : Nat × Nat :=
  if n ≠ 0 then (n.toNat, 8)
  else if m = .extended then (16, 16)
  else if d = .empty then (0, 8)
  else if d = .rows16 then (16, 8)
  else (16, 16)

/-- R268: bit (r, c) of the sprite at `I`, in a row of one byte or of two, the most significant bit leftmost. -/
def Sys2Proof.Claim.spriteBitAt (s : State) (cols r c : Nat) : Prop :=
  (s.memRead ((s.i.toNat + r * (cols / 8) + c / 8) % 4096)).toNat / 2 ^ (7 - c % 8) % 2 = 1

/-- R269's table: the place of the sprite bit (r, c) is the visible pixel (py, px). -/
def Sys2Proof.Claim.placedAt (e : DrawEdge) (m : DisplayMode) (x0 y0 r c py px : Nat) : Prop :=
  match e with
  | .wrap => px = (x0 + c) % modeWidth m ∧ py = (y0 + r) % modeHeight m
  | .clip => px = x0 % modeWidth m + c ∧ py = y0 % modeHeight m + r ∧ px < modeWidth m ∧ py < modeHeight m

/-- The draw toggles the pixel (py, px): some 1 bit of the sprite is visible there. -/
def Sys2Proof.Claim.Drawn (e : DrawEdge) (d : Dxy0Standard) (x y : RegIdx) (n : BitVec 4) (s : State)
    (py px : Nat) : Prop :=
  ∃ r c, r < (rowsCols d n s.mode).1 ∧ c < (rowsCols d n s.mode).2 ∧
    spriteBitAt s (rowsCols d n s.mode).2 r c ∧
    placedAt e s.mode (s.reg x).toNat (s.reg y).toNat r c py px

/-- R267 to R270: `DRW` toggles exactly the pixels under the sprite's visible 1 bits and sets `VF` to whether one
of them was 1; every other register and everything else stays. Said for every value of `DRAW_EDGE` and
`DXY0_STANDARD`, and of `exec` for the ones the instance has. (Edge policy, shape and layout: the spec's own decisions
D10, D11 and D12.) -/
def Obligations.DrawTogglesTheSpriteAndReportsCollision : Prop :=
  EncodedBy 0xF000 0xD000 (fun w => .drw (opX w) (opY w) (opN w)) ∧
  ∀ (s : State) (x y : RegIdx) (n : BitVec 4),
    exec (.drw x y n) s = .next (drwWith drawEdge dxy0Standard x y n s) ∧
    ∀ (e : DrawEdge) (d : Dxy0Standard), ∃ t, drwWith e d x y n s = t ∧
      (∀ py px, (t.pixel py px = s.pixel py px ↔ ¬Drawn e d x y n s py px)) ∧
      ((∃ py px, Drawn e d x y n s py px ∧ s.pixel py px = true) → t.reg 15 = 1) ∧
      ((¬∃ py px, Drawn e d x y n s py px ∧ s.pixel py px = true) → t.reg 15 = 0) ∧
      (∀ k, k ≠ 15 → t.reg k = s.reg k) ∧ PcPlus 2 s t ∧ OnlyRegsPixelsPc s t

/-- Drawing the same sprite twice at the same place restores every pixel, and the second draw reports a
collision exactly when the first draw set a pixel (R271 as R267 has it, log entry 6: a pixel that was 1 before
the first draw is 0 when the second comes). Where the sprite's pixels lie rests on the spec's own decisions D10, D11 and
D12, as in the statement above. -/
def Obligations.DrawingTwiceRestoresTheScreen : Prop :=
  ∀ (s : State) (x y : RegIdx) (n : BitVec 4) (e : DrawEdge) (d : Dxy0Standard), x ≠ 15 → y ≠ 15 →
    ∃ t u, drwWith e d x y n s = t ∧ drwWith e d x y n t = u ∧ (∀ py px, u.pixel py px = s.pixel py px) ∧
      ((∃ py px, Drawn e d x y n s py px ∧ s.pixel py px = false) → u.reg 15 = 1) ∧
      ((¬∃ py px, Drawn e d x y n s py px ∧ s.pixel py px = false) → u.reg 15 = 0)

/-- R32 and R260 over all instructions: no instruction changes a pixel outside the active region, and only `CLS`,
the scrolls and `DRW` change a pixel at all. -/
def Obligations.OnlyActivePixelsChange : Prop :=
  ∀ (i : Instr) (s : State), Answers i s fun t =>
    (∀ y x, ¬s.inActive y x → t.pixel y x = s.pixel y x) ∧
    ((∀ y x, t.pixel y x = s.pixel y x) ∨ i = .cls ∨ (∃ n, i = .scd n) ∨ i = .scr ∨ i = .scl ∨
      ∃ x y n, i = .drw x y n)

/-! ### Key input and timers (spec/45_input_and_timers.md) -/

/-- R300 and R301: the key skips; a value above 15 names no key, which reads as not held (the spec's own decision
D21). -/
def Obligations.KeySkipsTestTheHeldKey : Prop :=
  EncodedBy 0xF0FF 0xE09E (fun w => .skp (opX w)) ∧
  EncodedBy 0xF0FF 0xE0A1 (fun w => .sknp (opX w)) ∧
  ∀ (s : State) (x : RegIdx),
    (Answers (.skp x) s fun t =>
      PcPlus (if ∃ h : (s.reg x).toNat < 16, s.keys[(s.reg x).toNat] = true then 4 else 2) s t ∧ OnlyPc s t) ∧
    Answers (.sknp x) s fun t =>
      PcPlus (if ∃ h : (s.reg x).toNat < 16, s.keys[(s.reg x).toNat] = true then 2 else 4) s t ∧ OnlyPc s t

/-- R303: `LD Vx, K` takes a latched press and consumes it; without one it changes nothing, the `PC` included
(the spec's own decision D22). -/
def Obligations.KeyWaitConsumesTheLatch : Prop :=
  EncodedBy 0xF0FF 0xF00A (fun w => .ldVxK (opX w)) ∧
  ∀ (s : State) (x : RegIdx),
    (s.latch.pending = true → Answers (.ldVxK x) s fun t =>
      SetsReg x s.latch.key.val s t ∧ t.latch.pending = false ∧ t.latch.key = s.latch.key ∧ t.keys = s.keys ∧
      PcPlus 2 s t ∧ t.i = s.i ∧ SameMem s t ∧ SameStack s t ∧ SameTimers s t ∧ SameDisplay s t ∧ SameCount s t ∧
      SameHost s t) ∧
    (s.latch.pending = false → exec (.ldVxK x) s = .next s)

/-- R302, R304 and R305: the timer read and the timer writes. -/
def Obligations.TimerReadsAndWrites : Prop :=
  EncodedBy 0xF0FF 0xF007 (fun w => .ldVxDt (opX w)) ∧
  EncodedBy 0xF0FF 0xF015 (fun w => .ldDtVx (opX w)) ∧
  EncodedBy 0xF0FF 0xF018 (fun w => .ldStVx (opX w)) ∧
  ∀ (s : State) (x : RegIdx),
    (Answers (.ldVxDt x) s fun t => SetsReg x s.dt.toNat s t ∧ PcPlus 2 s t ∧ OnlyRegsPc s t) ∧
    (Answers (.ldDtVx x) s fun t =>
      t.dt = s.reg x ∧ t.st = s.st ∧ PcPlus 2 s t ∧ SameRegs s t ∧ t.i = s.i ∧ SameMem s t ∧ SameStack s t ∧
      SameDisplay s t ∧ SameInput s t ∧ SameCount s t ∧ SameHost s t) ∧
    Answers (.ldStVx x) s fun t =>
      t.st = s.reg x ∧ t.dt = s.dt ∧ PcPlus 2 s t ∧ SameRegs s t ∧ t.i = s.i ∧ SameMem s t ∧ SameStack s t ∧
      SameDisplay s t ∧ SameInput s t ∧ SameCount s t ∧ SameHost s t

/-- R367 and R344: a key wait reached with no latched press takes every remaining cycle with no effect, and the
timers still tick at the end of the `step()`. -/
def Obligations.KeyWaitBlocksTheStep : Prop :=
  ∀ (s : State) (x : RegIdx), decodeWord s.fetchWord = .ldVxK x → s.latch.pending = false →
    (∀ n, execute n s = .next s) ∧
    ∃ t, hostStep s = .next t ∧ t.dt.toNat = s.dt.toNat - 1 ∧ t.st.toNat = s.st.toNat - 1 ∧
      t = { s with dt := t.dt, st := t.st }

/-! ### Who writes and who reads what (spec/10_state.md) -/

/-- R24, R27, R29, R30, R33, R34, R35, R64: what each instruction may write, over all of them. -/
def Obligations.StateIsWrittenOnlyByItsInstructions : Prop :=
  ∀ (i : Instr) (s : State), Answers i s fun t =>
    (t.i = s.i ∨ (∃ nnn, i = .ldI nnn) ∨ ∃ x, i = .addI x ∨ i = .ldF x ∨ i = .ldHf x ∨ i = .stRegs x ∨
      i = .ldRegs x) ∧
    (SameStack s t ∨ i = .ret ∨ ∃ nnn, i = .call nnn) ∧
    (t.dt = s.dt ∨ ∃ x, i = .ldDtVx x) ∧
    (t.st = s.st ∨ ∃ x, i = .ldStVx x) ∧
    (t.mode = s.mode ∨ i = .low ∨ i = .high) ∧
    t.keys = s.keys ∧
    (t.latch = s.latch ∨ ∃ x, i = .ldVxK x) ∧
    (t.unknownCount = s.unknownCount ∨ ∃ w, i = .unrecognized w) ∧
    (t.mem = s.mem ∨ ∃ x, i = .ldB x ∨ i = .stRegs x) ∧
    (t.draws = s.draws ∨ ∃ x nn, i = .rnd x nn) ∧
    t.cyclesPerStep = s.cyclesPerStep ∧ t.cyclesLeft = s.cyclesLeft ∧ t.hostOps = s.hostOps

/-- R29, R33, R34, R35: `ST` and `UNKNOWN_COUNT` are read by no instruction, the key states only by `SKP` and `SKNP`
and the latch only by `LD Vx, K`: changing what an instruction does not read changes nothing else of its
result. (That the two executions of a `RND` are given the same byte is the model's choice, log entry 1.) -/
def Obligations.HiddenStateDoesNotReachOtherInstructions : Prop :=
  ∀ (i : Instr) (s : State) (st : Byte) (count : BitVec 32) (keys : Vector Bool 16) (latch : KeyLatch),
    (∀ x, i ≠ .skp x ∧ i ≠ .sknp x ∨ keys = s.keys) → (∀ x, i ≠ .ldVxK x ∨ latch = s.latch) →
    ∃ t t', exec i s = .next t ∧
      exec i { s with st := st, unknownCount := count, keys := keys, latch := latch } = .next t' ∧
      t' = { t with st := t'.st, unknownCount := t'.unknownCount, keys := keys, latch := t'.latch } ∧
      (t'.st = st ∨ ∃ x, i = .ldStVx x) ∧ (t'.unknownCount = count ∨ ∃ w, i = .unrecognized w) ∧
      (t'.latch = latch ∨ ∃ x, i = .ldVxK x)

/-! ### The host's side (spec/40_cycle_and_host.md, spec/70_reset_and_hazards.md) -/

/-- R134: `step()` runs `CYCLES_PER_STEP` cycles and then takes one from each nonzero timer, whatever the number of
cycles, and changes nothing else. -/
def Obligations.StepTicksTheTimersOnce : Prop :=
  ∀ s : State, ∃ t u, execute s.cyclesPerStep s = .next t ∧ hostStep s = .next u ∧
    u.dt.toNat = t.dt.toNat - 1 ∧ u.st.toNat = t.st.toNat - 1 ∧ u = { t with dt := u.dt, st := u.st }

/-- The machine's own steps do what R134 says of a `step()`: from a state at the start of a `step()` of `n` cycles,
`n` steps of the machine give the state after `execute(n)` and the timer tick, handed to the host for its next
operations; and when the host makes a `step()`, the machine's steps that follow give the state `hostStep` gives, handed
to the host for the operations after it. (The count of cycles left and the waiting operations are the model's own
fields, log entry 2.) -/
def Obligations.MachineStepsMakeUpTheHostStep : Prop :=
  (∀ (n : Nat) (s : State), s.cyclesLeft = n + 1 →
    ∃ t, execute (n + 1) s = .next t ∧
      repeatTimes step (n + 1) s = .next (hostTurn s.hostOps { t.tickTimers with cyclesLeft := 0 })) ∧
  ∀ (n : Nat) (s : State) (rest : List HostOp), s.cyclesLeft = 0 → s.cyclesPerStep = n + 1 →
    ∃ t, hostStep s = .next t ∧
      repeatTimes step (n + 1) (hostTurn (.step :: rest) s) = .next (hostTurn rest { t with hostOps := rest })

/-- R71, R143, R335 and R134: at its turn the host makes its operations one after the other in its own order, none left
out, up to its next `step()`; that begins with `CYCLES_PER_STEP` cycles to run and the operations after it waiting, or,
when `CYCLES_PER_STEP` is 0, ticks both timers at once and the host goes on. (The count of cycles left and the waiting
operations are the model's own fields, log entry 2.) -/
def Obligations.HostMakesItsOperationsInOrder : Prop :=
  ∀ (ops rest : List HostOp) (s : State), s.cyclesLeft = 0 → .step ∉ ops →
    ∃ u, ops.foldl State.serve s = u ∧
      hostTurn ops s = { u with hostOps := [] } ∧
      (s.cyclesPerStep ≠ 0 → hostTurn (ops ++ .step :: rest) s =
        { u with cyclesLeft := s.cyclesPerStep, hostOps := rest }) ∧
      (s.cyclesPerStep = 0 → ∃ t, hostTurn (ops ++ .step :: rest) s = hostTurn rest t ∧
        t.dt.toNat = u.dt.toNat - 1 ∧ t.st.toNat = u.st.toNat - 1 ∧ t = { u with dt := t.dt, st := t.st })

/-- R71 and R143: inside a `step()`, and outside any, a machine step is the instruction alone: no timer ticks and no
host operation lands, and only the count of cycles left moves. -/
def Obligations.HostActsOnlyBetweenSteps : Prop :=
  ∀ s : State, s.cyclesLeft ≠ 1 →
    ∃ t, cycle s = .next t ∧ step s = .next { t with cyclesLeft := s.cyclesLeft - 1 } ∧
      t.cyclesLeft = s.cyclesLeft ∧ t.hostOps = s.hostOps

/-- R138: `load_program` copies the bytes at 0x200 and changes nothing else; a read failure or more than 3584 bytes
is a load error that changes nothing (the spec's own decision D27). -/
def Obligations.LoadProgramCopiesOrFails : Prop :=
  ∀ (s : State) (bytes : List Byte),
    (s.reply (.loadProgram none) = .loadError ∧ s.serve (.loadProgram none) = s) ∧
    (3584 < bytes.length →
      s.reply (.loadProgram (some bytes)) = .loadError ∧ s.serve (.loadProgram (some bytes)) = s) ∧
    (bytes.length ≤ 3584 →
      s.reply (.loadProgram (some bytes)) = .loaded ∧
      ∃ t, s.serve (.loadProgram (some bytes)) = t ∧
        (∀ k, (h : k < bytes.length) → t.memRead (0x200 + k) = bytes[k]) ∧
        (∀ a, a < 4096 → a < 0x200 ∨ 0x200 + bytes.length ≤ a → t.memRead a = s.memRead a) ∧
        t = { s with mem := t.mem })

/-- R139: `set_key` writes the key's state, a press also sets the latch, a release leaves it; a key above 15 changes
nothing (the spec's own decisions D22 and D23). -/
def Obligations.SetKeyWritesKeyAndLatch : Prop :=
  ∀ (s : State) (k : Nat) (pressed : Bool),
    (15 < k → s.serve (.setKey k pressed) = s) ∧
    (k ≤ 15 → ∃ t, s.serve (.setKey k pressed) = t ∧ t.keys[k]? = some pressed ∧
      (∀ j, j ≠ k → t.keys[j]? = s.keys[j]?) ∧
      (if pressed then t.latch.pending = true ∧ t.latch.key.val = k else t.latch = s.latch) ∧
      t = { s with keys := t.keys, latch := t.latch })

/-- R140 to R142: the three views return the active region row by row, the mode and the timers, and change
nothing (the order of the pixels is the spec's own decision D13). -/
def Obligations.ViewsReturnWithoutChange : Prop :=
  ∀ s : State,
    s.serve .getFramebuffer = s ∧ s.serve .getDisplayMode = s ∧ s.serve .getTimers = s ∧
    s.reply .getDisplayMode = .displayMode s.mode ∧ s.reply .getTimers = .timers s.dt s.st ∧
    ∃ bytes, s.reply .getFramebuffer = .framebuffer bytes ∧
      bytes.length = modeWidth s.mode * modeHeight s.mode ∧
      ∀ y x, s.inActive y x →
        bytes[y * modeWidth s.mode + x]? = some (if s.pixel y x = true then 1 else 0)

/-- Clearing the screen and then reading it gives an all-zero view of the size of the mode (S3). -/
def Obligations.ClearedScreenReadsAllZero : Prop :=
  ∀ s : State, Answers .cls s fun t =>
    t.reply .getFramebuffer = .framebuffer (List.replicate (modeWidth s.mode * modeHeight s.mode) 0)

/-- R360: `reset()` from any state sets every element of R20 to its reset value, with the host's fonts in memory at
their bases (R361) and every other byte 0 (the spec's own decisions D28 and D19). -/
def Obligations.ResetSetsEveryElement : Prop :=
  ∀ s : State, ∃ t, s.serve .reset = t ∧
    (∀ k, t.reg k = 0) ∧ t.i = 0 ∧ t.pc = 0x200 ∧ (∀ k, k < 16 → t.stack[k]? = some 0) ∧ t.sp.val = 0 ∧
    t.dt = 0 ∧ t.st = 0 ∧ t.mode = .standard ∧ (∀ y x, t.pixel y x = false) ∧
    (∀ k, k < 16 → t.keys[k]? = some false) ∧ t.latch.pending = false ∧ t.latch.key = 0 ∧ t.unknownCount = 0 ∧
    (∀ k, (h : k < 80) → t.memRead (smallFontBase + k) = Config.smallFont[k]) ∧
    (∀ k, (h : k < 100) → t.memRead (bigFontBase + k) = Config.bigFont[k]) ∧
    (∀ a, a < 4096 → ¬(smallFontBase ≤ a ∧ a < smallFontBase + 80) →
      ¬(bigFontBase ≤ a ∧ a < bigFontBase + 100) → t.memRead a = 0) ∧
    (smallFontBase + 80 ≤ 0x200 ∧ bigFontBase + 100 ≤ 0x200 ∧
      (smallFontBase + 80 ≤ bigFontBase ∨ bigFontBase + 100 ≤ smallFontBase))

/-- R362: the power-on state is the one `reset()` produces, the first instruction is fetched at 0x200 and the mode is
`Standard` (the spec's own derivation from R360). (`reset()` keeps the model's own fields, log entry 7.) -/
def Obligations.PowerOnIsTheStateOfReset : Prop :=
  (∀ s : State, s.serve .reset = { State.reset with
    draws := s.draws, cyclesPerStep := s.cyclesPerStep, cyclesLeft := s.cyclesLeft, hostOps := s.hostOps }) ∧
  State.reset.mode = .standard ∧
  cycle State.reset =
    exec (decodeWord (wordOfBytes (State.reset.memRead 0x200) (State.reset.memRead 0x201))) State.reset

/-! ### The invariant -/

/-- The invariant holds after reset. (It is the model's own: the canonical form of memory, log entry 3, and the
count of cycles left, log entry 2.) -/
def Obligations.ResetMeetsTheInvariant : Prop := State.reset.Inv

/-- From every state that meets the invariant a step answers a next state, and it meets the invariant: the machine
never stops (R136), memory stays in its canonical form and no `step()` has more cycles left than
`CYCLES_PER_STEP`, whatever the host does. -/
def Obligations.StepKeepsTheInvariant : Prop := ∀ s : State, s.Inv → ∃ t, step s = .next t ∧ t.Inv
end

