-- ==== Sys2Proof/Laws/Decode.lean ====
section
/-! SUPPORT. The bits of a word: a word as its four nibbles, its fields from them, and masking nibble by
nibble. -/

namespace Sys2Proof

/-- The word of four nibbles, the most significant first. -/
abbrev nibbles (f x y n : BitVec 4) : Word := f ++ x ++ y ++ n

theorem extract_low {a b : Nat} (u : BitVec a) (v : BitVec b) : (u ++ v).extractLsb' 0 b = v :=
  BitVec.extractLsb'_append_eq_right

/-- Every word is four nibbles. -/
theorem nibbles_cases (w : Word) : ∃ f x y n, w = nibbles f x y n := by
  refine ⟨w.extractLsb' 12 4, w.extractLsb' 8 4, w.extractLsb' 4 4, w.extractLsb' 0 4, ?_⟩
  apply BitVec.eq_of_getLsbD_eq
  intro k hk
  simp only [nibbles, BitVec.getLsbD_append, BitVec.getLsbD_extractLsb']
  split
  · simp; omega
  · split
    · rw [show 4 + (k - 4) = k by omega]; simp; omega
    · split
      · rw [show 8 + (k - 4 - 4) = k by omega]; simp; omega
      · rw [show 12 + (k - 4 - 4 - 4) = k by omega]; simp; omega

section
variable (f x y n : BitVec 4)

@[simp] theorem opN_nibbles : opN (nibbles f x y n) = n := BitVec.extractLsb'_append_eq_right

@[simp] theorem low2_nibbles : (nibbles f x y n).extractLsb' 4 4 = y := by
  apply BitVec.eq_of_getLsbD_eq
  intro k hk
  simp only [BitVec.getLsbD_append, BitVec.getLsbD_extractLsb', hk, decide_true, Bool.true_and]
  rw [if_neg (by omega), if_pos (by omega), show 4 + k - 4 = k by omega]

@[simp] theorem low3_nibbles : (nibbles f x y n).extractLsb' 8 4 = x := by
  apply BitVec.eq_of_getLsbD_eq
  intro k hk
  simp only [BitVec.getLsbD_append, BitVec.getLsbD_extractLsb', hk, decide_true, Bool.true_and]
  rw [if_neg (by omega), if_neg (by omega), if_pos (by omega), show 8 + k - 4 - 4 = k by omega]

@[simp] theorem opF_nibbles : opF (nibbles f x y n) = f := by
  apply BitVec.eq_of_getLsbD_eq
  intro k hk
  simp only [opF, BitVec.getLsbD_append, BitVec.getLsbD_extractLsb', hk, decide_true, Bool.true_and]
  rw [if_neg (by omega), if_neg (by omega), if_neg (by omega), show 12 + k - 4 - 4 - 4 = k by omega]

@[simp] theorem opX_nibbles : opX (nibbles f x y n) = x.toFin := by
  rw [opX, low3_nibbles]

@[simp] theorem opY_nibbles : opY (nibbles f x y n) = y.toFin := by
  rw [opY, low2_nibbles]

@[simp] theorem opNN_nibbles : opNN (nibbles f x y n) = y ++ n := by
  apply BitVec.eq_of_getLsbD_eq
  intro k hk
  simp only [opNN, BitVec.getLsbD_append, BitVec.getLsbD_extractLsb', hk, decide_true, Bool.true_and,
    Nat.zero_add]
  split
  · rfl
  · rw [if_pos (by omega)]

@[simp] theorem opNNN_nibbles : opNNN (nibbles f x y n) = x ++ y ++ n := by
  apply BitVec.eq_of_getLsbD_eq
  intro k hk
  simp only [opNNN, BitVec.getLsbD_append, BitVec.getLsbD_extractLsb', hk, decide_true, Bool.true_and,
    Nat.zero_add]
  split
  · rfl
  · split
    · rfl
    · rw [if_pos (by omega)]

/-- Two words are equal nibble by nibble. -/
theorem nibbles_inj {f' x' y' n' : BitVec 4} :
    nibbles f x y n = nibbles f' x' y' n' ↔ f = f' ∧ x = x' ∧ y = y' ∧ n = n' := by
  constructor
  · intro h
    refine ⟨?_, ?_, ?_, ?_⟩
    · rw [← opF_nibbles f x y n, h, opF_nibbles]
    · rw [← low3_nibbles f x y n, h, low3_nibbles]
    · rw [← low2_nibbles f x y n, h, low2_nibbles]
    · rw [← opN_nibbles f x y n, h, opN_nibbles]
  · rintro ⟨rfl, rfl, rfl, rfl⟩
    rfl

/-- Masking a word masks its nibbles. -/
theorem nibbles_and (f' x' y' n' : BitVec 4) :
    nibbles f x y n &&& nibbles f' x' y' n' = nibbles (f &&& f') (x &&& x') (y &&& y') (n &&& n') := by
  apply BitVec.eq_of_getLsbD_eq
  intro k hk
  simp only [BitVec.getLsbD_and, BitVec.getLsbD_append]
  split
  · rfl
  · split
    · rfl
    · split <;> rfl

end

/-- A word with an 8-bit or a 12-bit field as its nibbles. -/
theorem byte_nibbles (b : Byte) : ∃ y n : BitVec 4, b = y ++ n := by
  refine ⟨b.extractLsb' 4 4, b.extractLsb' 0 4, ?_⟩
  apply BitVec.eq_of_getLsbD_eq
  intro k hk
  simp only [BitVec.getLsbD_append, BitVec.getLsbD_extractLsb']
  split
  · simp; omega
  · rw [show 4 + (k - 4) = k by omega]; simp; omega

theorem addr_nibbles (a : Addr) : ∃ x y n : BitVec 4, a = x ++ y ++ n := by
  refine ⟨a.extractLsb' 8 4, a.extractLsb' 4 4, a.extractLsb' 0 4, ?_⟩
  apply BitVec.eq_of_getLsbD_eq
  intro k hk
  simp only [BitVec.getLsbD_append, BitVec.getLsbD_extractLsb']
  split
  · simp; omega
  · split
    · rw [show 4 + (k - 4) = k by omega]; simp; omega
    · rw [show 8 + (k - 4 - 4) = k by omega]; simp; omega

theorem append_nibbles2 (f x y n : BitVec 4) : (f ++ x ++ (y ++ n) : Word) = nibbles f x y n := by
  apply BitVec.eq_of_getLsbD_eq
  intro k hk
  simp only [nibbles, BitVec.getLsbD_append]
  by_cases h1 : k < 4
  · simp [h1, show k < 8 by omega]
  · by_cases h2 : k < 8
    · simp [h1, h2, show k - 4 < 4 by omega]
    · simp only [h1, h2, show ¬k - 4 < 4 by omega, if_false]
      rw [show k - 4 - 4 = k - 8 by omega]

theorem append_nibbles3 (f x y n : BitVec 4) : (f ++ (x ++ y ++ n) : Word) = nibbles f x y n := by
  apply BitVec.eq_of_getLsbD_eq
  intro k hk
  simp only [nibbles, BitVec.getLsbD_append]
  by_cases h1 : k < 4
  · simp [h1, show k < 12 by omega]
  · by_cases h2 : k < 8
    · simp [h1, show k < 12 by omega, show k - 4 < 4 by omega]
    · by_cases h3 : k < 12
      · simp only [h1, h3, show ¬k - 4 < 4 by omega, show k - 4 - 4 < 4 by omega, if_true, if_false]
      · simp only [h1, h3, show ¬k - 4 < 4 by omega, show ¬k - 4 - 4 < 4 by omega, if_false]
        rw [show k - 4 - 4 - 4 = k - 12 by omega]

/-- The bytes of a word are its word again. -/
theorem wordOfBytes_bytesOfWord (w : Word) : wordOfBytes (w.extractLsb' 8 8) (w.extractLsb' 0 8) = w := by
  apply BitVec.eq_of_getLsbD_eq
  intro k hk
  simp only [wordOfBytes, BitVec.getLsbD_append, BitVec.getLsbD_extractLsb']
  split
  · simp; omega
  · rw [show 8 + (k - 8) = k by omega]; simp; omega

theorem decode_bytesOfWord (w : Word) (rest : List Byte) :
    decode (bytesOfWord w ++ rest) = .ok (decodeWord w, rest) := by
  simp only [bytesOfWord, List.cons_append, List.nil_append, decode, wordOfBytes_bytesOfWord]

@[simp] theorem regField_toFin (x : RegIdx) : (regField x).toFin = x := by
  revert x; decide

@[simp] theorem regField_of_toFin (b : BitVec 4) : regField b.toFin = b := by
  revert b; decide

/-! ### The fields of a word written with an address or a byte -/

@[simp] theorem opNNN_addr (f : BitVec 4) (a : Addr) : opNNN (f ++ a) = a := BitVec.extractLsb'_append_eq_right

@[simp] theorem opNN_byte (f x : BitVec 4) (b : Byte) : opNN (f ++ x ++ b) = b := BitVec.extractLsb'_append_eq_right

@[simp] theorem opX_byte (f x : BitVec 4) (b : Byte) : opX (f ++ x ++ b) = x.toFin := by
  obtain ⟨y, n, rfl⟩ := byte_nibbles b
  rw [append_nibbles2, opX_nibbles]

/-! ### A word under the masks of R97 -/

/-- The mask of a row that the family alone selects. -/
theorem nibbles_and_family (f x y n : BitVec 4) : nibbles f x y n &&& 0xF000 = nibbles f 0 0 0 := by
  rw [show (0xF000 : Word) = nibbles 0xF 0 0 0 by decide, nibbles_and]
  simp [show ∀ b : BitVec 4, b &&& 15#4 = b by decide]

/-- The mask of a row that the family and the low nibble select. -/
theorem nibbles_and_sub (f x y n : BitVec 4) : nibbles f x y n &&& 0xF00F = nibbles f 0 0 n := by
  rw [show (0xF00F : Word) = nibbles 0xF 0 0 0xF by decide, nibbles_and]
  simp [show ∀ b : BitVec 4, b &&& 15#4 = b by decide]

/-- The mask of a row that the family and the low byte select. -/
theorem nibbles_and_low (f x y n : BitVec 4) : nibbles f x y n &&& 0xF0FF = nibbles f 0 y n := by
  rw [show (0xF0FF : Word) = nibbles 0xF 0 0xF 0xF by decide, nibbles_and]
  simp [show ∀ b : BitVec 4, b &&& 15#4 = b by decide]

theorem addr_and_family (f : BitVec 4) (a : Addr) : (f ++ a : Word) &&& 0xF000 = nibbles f 0 0 0 := by
  obtain ⟨x, y, n, rfl⟩ := addr_nibbles a
  rw [append_nibbles3, nibbles_and_family]

theorem byte_and_family (f x : BitVec 4) (b : Byte) : (f ++ x ++ b : Word) &&& 0xF000 = nibbles f 0 0 0 := by
  obtain ⟨y, n, rfl⟩ := byte_nibbles b
  rw [append_nibbles2, nibbles_and_family]

/-- What a row's mask and pattern fix, for the three masks of R97 that fix whole nibbles. -/
theorem of_mask_family {f x y n k : BitVec 4} {p : Word} (hp : p = nibbles k 0 0 0)
    (h : nibbles f x y n &&& 0xF000 = p) : f = k := by
  rw [nibbles_and_family, hp, nibbles_inj] at h
  exact h.1

theorem of_mask_sub {f x y n k j : BitVec 4} {p : Word} (hp : p = nibbles k 0 0 j)
    (h : nibbles f x y n &&& 0xF00F = p) : f = k ∧ n = j := by
  rw [nibbles_and_sub, hp, nibbles_inj] at h
  exact ⟨h.1, h.2.2.2⟩

theorem of_mask_low {f x y n k i j : BitVec 4} {p : Word} (hp : p = nibbles k 0 i j)
    (h : nibbles f x y n &&& 0xF0FF = p) : f = k ∧ y = i ∧ n = j := by
  rw [nibbles_and_low, hp, nibbles_inj] at h
  exact ⟨h.1, h.2.2.1, h.2.2.2⟩

end Sys2Proof
end

