-- ==== Sys2Proof/Laws/Framebuffer.lean ====
section
/-! SUPPORT. What the framebuffer operations do, pixel by pixel. -/

namespace Sys2Proof.Machine

theorem Framebuffer.row_of_ge (fb : Framebuffer) {y : Nat} (h : 64 ≤ y) : fb.row y = 0 := by
  simp [Framebuffer.row, Vector.getElem?_eq_none h]

/-- No pixel outside the storage is set. -/
theorem Framebuffer.pixel_outside (fb : Framebuffer) {y x : Nat} (h : ¬(y < 64 ∧ x < 128)) :
    fb.pixel y x = false := by
  unfold Framebuffer.pixel
  by_cases hy : y < 64
  · exact BitVec.getLsbD_of_ge _ _ (by omega)
  · simp [Framebuffer.row_of_ge fb (y := y) (by omega)]

/-- A toggle changes exactly its pixel, when that is in the storage. -/
theorem Framebuffer.pixel_toggle (fb : Framebuffer) {y x : Nat} (hy : y < 64) (hx : x < 128) (py px : Nat) :
    (fb.toggle y x).pixel py px = (fb.pixel py px ^^ decide (py = y ∧ px = x)) := by
  by_cases h : py = y
  · subst h
    simp only [Framebuffer.pixel, Framebuffer.toggle, Framebuffer.row, Vector.getElem?_setIfInBounds, hy]
    simp [BitVec.getLsbD_xor, BitVec.getLsbD_twoPow, hx, eq_comm]
  · have h' : ¬y = py := fun e => h e.symm
    simp [Framebuffer.pixel, Framebuffer.toggle, Framebuffer.row, h, h']

theorem getLsbD_columnMask {w : Nat} (hw : w ≤ 128) (x : Nat) : (columnMask w).getLsbD x = decide (x < w) := by
  unfold columnMask
  rw [BitVec.getLsbD_ofNat, Nat.testBit_two_pow_sub_one]
  by_cases h : x < w
  · simp [h]; omega
  · simp [h]

theorem getLsbD_replaceColumns {w : Nat} (hw : w ≤ 128) (old new : PixelRow) (x : Nat) :
    (replaceColumns w old new).getLsbD x = if x < w then new.getLsbD x else old.getLsbD x := by
  unfold replaceColumns
  by_cases hx : x < 128
  · simp only [BitVec.getLsbD_or, BitVec.getLsbD_and, BitVec.getLsbD_not, getLsbD_columnMask hw]
    by_cases h : x < w <;> simp only [h, hx] <;> simp
  · simp [BitVec.getLsbD_of_ge _ _ (by omega : 128 ≤ x)]

/-- `mapActive` gives the active rectangle the new pixels and leaves the others. -/
theorem Framebuffer.pixel_mapActive {w h : Nat} (hw : w ≤ 128) (hh : h ≤ 64) (f : Nat → PixelRow)
    (fb : Framebuffer) (y x : Nat) :
    (fb.mapActive w h f).pixel y x = if y < h ∧ x < w then (f y).getLsbD x else fb.pixel y x := by
  by_cases hy : y < 64
  · have hrow : (fb.mapActive w h f).row y =
        if y < h then replaceColumns w (fb.row y) (f y) else fb.row y := by
      simp [Framebuffer.mapActive, Framebuffer.row, hy]
    unfold Framebuffer.pixel
    rw [hrow]
    by_cases h1 : y < h
    · simp [h1, getLsbD_replaceColumns hw]
    · simp [h1]
  · rw [Framebuffer.pixel_outside _ (by omega), Framebuffer.pixel_outside _ (by omega), if_neg (by omega)]

theorem modeWidth_le (m : DisplayMode) : modeWidth m ≤ 128 := by cases m <;> decide

theorem modeHeight_le (m : DisplayMode) : modeHeight m ≤ 64 := by cases m <;> decide

theorem modeWidth_pos (m : DisplayMode) : 16 ≤ modeWidth m := by cases m <;> decide

theorem modeHeight_pos (m : DisplayMode) : 16 ≤ modeHeight m := by cases m <;> decide

section
variable {w h : Nat} (hw : w ≤ 128) (hh : h ≤ 64) (fb : Framebuffer) (y x : Nat)
include hw hh

theorem Framebuffer.pixel_clear :
    (fb.clear w h).pixel y x = if y < h ∧ x < w then false else fb.pixel y x := by
  rw [Framebuffer.clear, Framebuffer.pixel_mapActive hw hh]
  simp

theorem Framebuffer.pixel_scrollDown (n : Nat) :
    (fb.scrollDown w h n).pixel y x =
      if y < h ∧ x < w then (if n ≤ y then fb.pixel (y - n) x else false) else fb.pixel y x := by
  rw [Framebuffer.scrollDown, Framebuffer.pixel_mapActive hw hh]
  by_cases hn : n ≤ y
  · simp only [hn, if_true, Framebuffer.pixel]
  · simp only [hn, if_false]
    simp

theorem Framebuffer.pixel_scrollRight (d : Nat) :
    (fb.scrollRight w h d).pixel y x =
      if y < h ∧ x < w then (if d ≤ x then fb.pixel y (x - d) else false) else fb.pixel y x := by
  rw [Framebuffer.scrollRight, Framebuffer.pixel_mapActive hw hh]
  by_cases ha : y < h ∧ x < w
  · rw [if_pos ha, if_pos ha, BitVec.getLsbD_shiftLeft]
    by_cases hd : d ≤ x
    · simp [hd, show x < 128 by omega, show ¬x < d by omega, Framebuffer.pixel]
    · simp [hd, show x < d by omega]
  · rw [if_neg ha, if_neg ha]

theorem Framebuffer.pixel_scrollLeft (d : Nat) :
    (fb.scrollLeft w h d).pixel y x =
      if y < h ∧ x < w then (if x + d < w then fb.pixel y (x + d) else false) else fb.pixel y x := by
  rw [Framebuffer.scrollLeft, Framebuffer.pixel_mapActive hw hh]
  rw [BitVec.getLsbD_ushiftRight, BitVec.getLsbD_and, getLsbD_columnMask hw, Nat.add_comm d x]
  by_cases hd : x + d < w <;> simp [hd, Framebuffer.pixel]

end

/-- Two framebuffers with the same pixels are the same. -/
theorem Framebuffer.ext_pixel {f g : Framebuffer} (h : ∀ y x, f.pixel y x = g.pixel y x) : f = g := by
  apply Vector.ext
  intro y hy
  apply BitVec.eq_of_getLsbD_eq
  intro x _
  simpa [Framebuffer.pixel, Framebuffer.row, hy] using h y x

/-! ### The draw loop -/

theorem Framebuffer.drawPixels_cons (fb : Framebuffer) (p : Nat × Nat) (ps : List (Nat × Nat)) :
    fb.drawPixels (p :: ps) =
      (((fb.toggle p.2 p.1).drawPixels ps).1, fb.pixel p.2 p.1 || ((fb.toggle p.2 p.1).drawPixels ps).2) := by
  have key : ∀ (qs : List (Nat × Nat)) (g : Framebuffer) (b : Bool),
      qs.foldl (fun acc p => (acc.1.toggle p.2 p.1, acc.2 || acc.1.pixel p.2 p.1)) (g, b) =
        ((g.drawPixels qs).1, b || (g.drawPixels qs).2) := by
    intro qs
    induction qs with
    | nil => intro g b; simp [Framebuffer.drawPixels]
    | cons q qs ih =>
      intro g b
      simp only [Framebuffer.drawPixels, List.foldl_cons, Bool.false_or]
      rw [ih (g.toggle q.2 q.1) (b || g.pixel q.2 q.1), ih (g.toggle q.2 q.1) (g.pixel q.2 q.1)]
      simp [Bool.or_assoc]
  simpa [Framebuffer.drawPixels] using key ps (fb.toggle p.2 p.1) (fb.pixel p.2 p.1)

/-- Drawing distinct pixels of the storage toggles exactly those, and collides when one of them was set. -/
theorem Framebuffer.drawPixels_spec (ps : List (Nat × Nat)) : ∀ (fb : Framebuffer), ps.Nodup →
    (∀ p ∈ ps, p.2 < 64 ∧ p.1 < 128) →
    (∀ y x, (fb.drawPixels ps).1.pixel y x = (fb.pixel y x ^^ decide ((x, y) ∈ ps))) ∧
      ((fb.drawPixels ps).2 = true ↔ ∃ p ∈ ps, fb.pixel p.2 p.1 = true) := by
  induction ps with
  | nil => intro fb _ _; simp [Framebuffer.drawPixels]
  | cons p ps ih =>
    intro fb hn hin
    obtain ⟨hp, hn'⟩ := List.nodup_cons.mp hn
    have hb := hin p (by simp)
    obtain ⟨h1, h2⟩ := ih (fb.toggle p.2 p.1) hn' fun q hq => hin q (by simp [hq])
    rw [Framebuffer.drawPixels_cons]
    constructor
    · intro y x
      rw [h1, Framebuffer.pixel_toggle fb hb.1 hb.2]
      by_cases hxy : (x, y) = p
      · subst hxy
        simp [hp]
      · have : ¬(y = p.2 ∧ x = p.1) := fun ⟨h, h'⟩ => hxy (Prod.ext h' h)
        simp [this, hxy]
    · have hsame : (∃ q ∈ ps, (fb.toggle p.2 p.1).pixel q.2 q.1 = true) ↔ ∃ q ∈ ps, fb.pixel q.2 q.1 = true := by
        refine exists_congr fun q => and_congr_right fun hq => ?_
        have : ¬(q.2 = p.2 ∧ q.1 = p.1) := fun ⟨h, h'⟩ => hp ((Prod.ext h' h : q = p) ▸ hq)
        rw [Framebuffer.pixel_toggle fb hb.1 hb.2]
        simp [this]
      simp [h2, hsame]

end Sys2Proof.Machine
end

