-- ==== Sys2Proof/Laws/State.lean ====
section
/-! SUPPORT. One lemma per field of `State` and update of `State`: what the field is after the update. Then the
shared operations as updates, and what the accessors `reg`, `memRead` and `pixel` read after each update. -/

namespace Sys2Proof.Machine

section
variable (s : State) (k : RegIdx) (b : Byte)
@[simp] theorem State.setReg_v : (s.setReg k b).v = s.v.set k b := rfl
@[simp] theorem State.setReg_i : (s.setReg k b).i = s.i := rfl
@[simp] theorem State.setReg_pc : (s.setReg k b).pc = s.pc := rfl
@[simp] theorem State.setReg_stack : (s.setReg k b).stack = s.stack := rfl
@[simp] theorem State.setReg_sp : (s.setReg k b).sp = s.sp := rfl
@[simp] theorem State.setReg_dt : (s.setReg k b).dt = s.dt := rfl
@[simp] theorem State.setReg_st : (s.setReg k b).st = s.st := rfl
@[simp] theorem State.setReg_mode : (s.setReg k b).mode = s.mode := rfl
@[simp] theorem State.setReg_fb : (s.setReg k b).fb = s.fb := rfl
@[simp] theorem State.setReg_keys : (s.setReg k b).keys = s.keys := rfl
@[simp] theorem State.setReg_latch : (s.setReg k b).latch = s.latch := rfl
@[simp] theorem State.setReg_unknownCount : (s.setReg k b).unknownCount = s.unknownCount := rfl
@[simp] theorem State.setReg_mem : (s.setReg k b).mem = s.mem := rfl
@[simp] theorem State.setReg_draws : (s.setReg k b).draws = s.draws := rfl
@[simp] theorem State.setReg_cyclesPerStep : (s.setReg k b).cyclesPerStep = s.cyclesPerStep := rfl
@[simp] theorem State.setReg_cyclesLeft : (s.setReg k b).cyclesLeft = s.cyclesLeft := rfl
@[simp] theorem State.setReg_hostOps : (s.setReg k b).hostOps = s.hostOps := rfl
end

section
variable (s : State) (f : RegIdx → Byte)
@[simp] theorem State.setRegs_v : (s.setRegs f).v = Vector.ofFn f := rfl
@[simp] theorem State.setRegs_i : (s.setRegs f).i = s.i := rfl
@[simp] theorem State.setRegs_pc : (s.setRegs f).pc = s.pc := rfl
@[simp] theorem State.setRegs_stack : (s.setRegs f).stack = s.stack := rfl
@[simp] theorem State.setRegs_sp : (s.setRegs f).sp = s.sp := rfl
@[simp] theorem State.setRegs_dt : (s.setRegs f).dt = s.dt := rfl
@[simp] theorem State.setRegs_st : (s.setRegs f).st = s.st := rfl
@[simp] theorem State.setRegs_mode : (s.setRegs f).mode = s.mode := rfl
@[simp] theorem State.setRegs_fb : (s.setRegs f).fb = s.fb := rfl
@[simp] theorem State.setRegs_keys : (s.setRegs f).keys = s.keys := rfl
@[simp] theorem State.setRegs_latch : (s.setRegs f).latch = s.latch := rfl
@[simp] theorem State.setRegs_unknownCount : (s.setRegs f).unknownCount = s.unknownCount := rfl
@[simp] theorem State.setRegs_mem : (s.setRegs f).mem = s.mem := rfl
@[simp] theorem State.setRegs_draws : (s.setRegs f).draws = s.draws := rfl
@[simp] theorem State.setRegs_cyclesPerStep : (s.setRegs f).cyclesPerStep = s.cyclesPerStep := rfl
@[simp] theorem State.setRegs_cyclesLeft : (s.setRegs f).cyclesLeft = s.cyclesLeft := rfl
@[simp] theorem State.setRegs_hostOps : (s.setRegs f).hostOps = s.hostOps := rfl
end

section
variable (s : State) (w : Word)
@[simp] theorem State.setI_v : (s.setI w).v = s.v := rfl
@[simp] theorem State.setI_i : (s.setI w).i = w := rfl
@[simp] theorem State.setI_pc : (s.setI w).pc = s.pc := rfl
@[simp] theorem State.setI_stack : (s.setI w).stack = s.stack := rfl
@[simp] theorem State.setI_sp : (s.setI w).sp = s.sp := rfl
@[simp] theorem State.setI_dt : (s.setI w).dt = s.dt := rfl
@[simp] theorem State.setI_st : (s.setI w).st = s.st := rfl
@[simp] theorem State.setI_mode : (s.setI w).mode = s.mode := rfl
@[simp] theorem State.setI_fb : (s.setI w).fb = s.fb := rfl
@[simp] theorem State.setI_keys : (s.setI w).keys = s.keys := rfl
@[simp] theorem State.setI_latch : (s.setI w).latch = s.latch := rfl
@[simp] theorem State.setI_unknownCount : (s.setI w).unknownCount = s.unknownCount := rfl
@[simp] theorem State.setI_mem : (s.setI w).mem = s.mem := rfl
@[simp] theorem State.setI_draws : (s.setI w).draws = s.draws := rfl
@[simp] theorem State.setI_cyclesPerStep : (s.setI w).cyclesPerStep = s.cyclesPerStep := rfl
@[simp] theorem State.setI_cyclesLeft : (s.setI w).cyclesLeft = s.cyclesLeft := rfl
@[simp] theorem State.setI_hostOps : (s.setI w).hostOps = s.hostOps := rfl
end

section
variable (s : State) (a : Addr)
@[simp] theorem State.setPc_v : (s.setPc a).v = s.v := rfl
@[simp] theorem State.setPc_i : (s.setPc a).i = s.i := rfl
@[simp] theorem State.setPc_pc : (s.setPc a).pc = a := rfl
@[simp] theorem State.setPc_stack : (s.setPc a).stack = s.stack := rfl
@[simp] theorem State.setPc_sp : (s.setPc a).sp = s.sp := rfl
@[simp] theorem State.setPc_dt : (s.setPc a).dt = s.dt := rfl
@[simp] theorem State.setPc_st : (s.setPc a).st = s.st := rfl
@[simp] theorem State.setPc_mode : (s.setPc a).mode = s.mode := rfl
@[simp] theorem State.setPc_fb : (s.setPc a).fb = s.fb := rfl
@[simp] theorem State.setPc_keys : (s.setPc a).keys = s.keys := rfl
@[simp] theorem State.setPc_latch : (s.setPc a).latch = s.latch := rfl
@[simp] theorem State.setPc_unknownCount : (s.setPc a).unknownCount = s.unknownCount := rfl
@[simp] theorem State.setPc_mem : (s.setPc a).mem = s.mem := rfl
@[simp] theorem State.setPc_draws : (s.setPc a).draws = s.draws := rfl
@[simp] theorem State.setPc_cyclesPerStep : (s.setPc a).cyclesPerStep = s.cyclesPerStep := rfl
@[simp] theorem State.setPc_cyclesLeft : (s.setPc a).cyclesLeft = s.cyclesLeft := rfl
@[simp] theorem State.setPc_hostOps : (s.setPc a).hostOps = s.hostOps := rfl
end

section
variable (s : State) (b : Byte)
@[simp] theorem State.setDt_v : (s.setDt b).v = s.v := rfl
@[simp] theorem State.setDt_i : (s.setDt b).i = s.i := rfl
@[simp] theorem State.setDt_pc : (s.setDt b).pc = s.pc := rfl
@[simp] theorem State.setDt_stack : (s.setDt b).stack = s.stack := rfl
@[simp] theorem State.setDt_sp : (s.setDt b).sp = s.sp := rfl
@[simp] theorem State.setDt_dt : (s.setDt b).dt = b := rfl
@[simp] theorem State.setDt_st : (s.setDt b).st = s.st := rfl
@[simp] theorem State.setDt_mode : (s.setDt b).mode = s.mode := rfl
@[simp] theorem State.setDt_fb : (s.setDt b).fb = s.fb := rfl
@[simp] theorem State.setDt_keys : (s.setDt b).keys = s.keys := rfl
@[simp] theorem State.setDt_latch : (s.setDt b).latch = s.latch := rfl
@[simp] theorem State.setDt_unknownCount : (s.setDt b).unknownCount = s.unknownCount := rfl
@[simp] theorem State.setDt_mem : (s.setDt b).mem = s.mem := rfl
@[simp] theorem State.setDt_draws : (s.setDt b).draws = s.draws := rfl
@[simp] theorem State.setDt_cyclesPerStep : (s.setDt b).cyclesPerStep = s.cyclesPerStep := rfl
@[simp] theorem State.setDt_cyclesLeft : (s.setDt b).cyclesLeft = s.cyclesLeft := rfl
@[simp] theorem State.setDt_hostOps : (s.setDt b).hostOps = s.hostOps := rfl
end

section
variable (s : State) (b : Byte)
@[simp] theorem State.setSt_v : (s.setSt b).v = s.v := rfl
@[simp] theorem State.setSt_i : (s.setSt b).i = s.i := rfl
@[simp] theorem State.setSt_pc : (s.setSt b).pc = s.pc := rfl
@[simp] theorem State.setSt_stack : (s.setSt b).stack = s.stack := rfl
@[simp] theorem State.setSt_sp : (s.setSt b).sp = s.sp := rfl
@[simp] theorem State.setSt_dt : (s.setSt b).dt = s.dt := rfl
@[simp] theorem State.setSt_st : (s.setSt b).st = b := rfl
@[simp] theorem State.setSt_mode : (s.setSt b).mode = s.mode := rfl
@[simp] theorem State.setSt_fb : (s.setSt b).fb = s.fb := rfl
@[simp] theorem State.setSt_keys : (s.setSt b).keys = s.keys := rfl
@[simp] theorem State.setSt_latch : (s.setSt b).latch = s.latch := rfl
@[simp] theorem State.setSt_unknownCount : (s.setSt b).unknownCount = s.unknownCount := rfl
@[simp] theorem State.setSt_mem : (s.setSt b).mem = s.mem := rfl
@[simp] theorem State.setSt_draws : (s.setSt b).draws = s.draws := rfl
@[simp] theorem State.setSt_cyclesPerStep : (s.setSt b).cyclesPerStep = s.cyclesPerStep := rfl
@[simp] theorem State.setSt_cyclesLeft : (s.setSt b).cyclesLeft = s.cyclesLeft := rfl
@[simp] theorem State.setSt_hostOps : (s.setSt b).hostOps = s.hostOps := rfl
end

section
variable (s : State) (m : DisplayMode)
@[simp] theorem State.setMode_v : (s.setMode m).v = s.v := rfl
@[simp] theorem State.setMode_i : (s.setMode m).i = s.i := rfl
@[simp] theorem State.setMode_pc : (s.setMode m).pc = s.pc := rfl
@[simp] theorem State.setMode_stack : (s.setMode m).stack = s.stack := rfl
@[simp] theorem State.setMode_sp : (s.setMode m).sp = s.sp := rfl
@[simp] theorem State.setMode_dt : (s.setMode m).dt = s.dt := rfl
@[simp] theorem State.setMode_st : (s.setMode m).st = s.st := rfl
@[simp] theorem State.setMode_mode : (s.setMode m).mode = m := rfl
@[simp] theorem State.setMode_fb : (s.setMode m).fb = s.fb := rfl
@[simp] theorem State.setMode_keys : (s.setMode m).keys = s.keys := rfl
@[simp] theorem State.setMode_latch : (s.setMode m).latch = s.latch := rfl
@[simp] theorem State.setMode_unknownCount : (s.setMode m).unknownCount = s.unknownCount := rfl
@[simp] theorem State.setMode_mem : (s.setMode m).mem = s.mem := rfl
@[simp] theorem State.setMode_draws : (s.setMode m).draws = s.draws := rfl
@[simp] theorem State.setMode_cyclesPerStep : (s.setMode m).cyclesPerStep = s.cyclesPerStep := rfl
@[simp] theorem State.setMode_cyclesLeft : (s.setMode m).cyclesLeft = s.cyclesLeft := rfl
@[simp] theorem State.setMode_hostOps : (s.setMode m).hostOps = s.hostOps := rfl
end

section
variable (s : State) (g : Framebuffer)
@[simp] theorem State.setFb_v : (s.setFb g).v = s.v := rfl
@[simp] theorem State.setFb_i : (s.setFb g).i = s.i := rfl
@[simp] theorem State.setFb_pc : (s.setFb g).pc = s.pc := rfl
@[simp] theorem State.setFb_stack : (s.setFb g).stack = s.stack := rfl
@[simp] theorem State.setFb_sp : (s.setFb g).sp = s.sp := rfl
@[simp] theorem State.setFb_dt : (s.setFb g).dt = s.dt := rfl
@[simp] theorem State.setFb_st : (s.setFb g).st = s.st := rfl
@[simp] theorem State.setFb_mode : (s.setFb g).mode = s.mode := rfl
@[simp] theorem State.setFb_fb : (s.setFb g).fb = g := rfl
@[simp] theorem State.setFb_keys : (s.setFb g).keys = s.keys := rfl
@[simp] theorem State.setFb_latch : (s.setFb g).latch = s.latch := rfl
@[simp] theorem State.setFb_unknownCount : (s.setFb g).unknownCount = s.unknownCount := rfl
@[simp] theorem State.setFb_mem : (s.setFb g).mem = s.mem := rfl
@[simp] theorem State.setFb_draws : (s.setFb g).draws = s.draws := rfl
@[simp] theorem State.setFb_cyclesPerStep : (s.setFb g).cyclesPerStep = s.cyclesPerStep := rfl
@[simp] theorem State.setFb_cyclesLeft : (s.setFb g).cyclesLeft = s.cyclesLeft := rfl
@[simp] theorem State.setFb_hostOps : (s.setFb g).hostOps = s.hostOps := rfl
end

section
variable (s : State) (l : KeyLatch)
@[simp] theorem State.setLatch_v : (s.setLatch l).v = s.v := rfl
@[simp] theorem State.setLatch_i : (s.setLatch l).i = s.i := rfl
@[simp] theorem State.setLatch_pc : (s.setLatch l).pc = s.pc := rfl
@[simp] theorem State.setLatch_stack : (s.setLatch l).stack = s.stack := rfl
@[simp] theorem State.setLatch_sp : (s.setLatch l).sp = s.sp := rfl
@[simp] theorem State.setLatch_dt : (s.setLatch l).dt = s.dt := rfl
@[simp] theorem State.setLatch_st : (s.setLatch l).st = s.st := rfl
@[simp] theorem State.setLatch_mode : (s.setLatch l).mode = s.mode := rfl
@[simp] theorem State.setLatch_fb : (s.setLatch l).fb = s.fb := rfl
@[simp] theorem State.setLatch_keys : (s.setLatch l).keys = s.keys := rfl
@[simp] theorem State.setLatch_latch : (s.setLatch l).latch = l := rfl
@[simp] theorem State.setLatch_unknownCount : (s.setLatch l).unknownCount = s.unknownCount := rfl
@[simp] theorem State.setLatch_mem : (s.setLatch l).mem = s.mem := rfl
@[simp] theorem State.setLatch_draws : (s.setLatch l).draws = s.draws := rfl
@[simp] theorem State.setLatch_cyclesPerStep : (s.setLatch l).cyclesPerStep = s.cyclesPerStep := rfl
@[simp] theorem State.setLatch_cyclesLeft : (s.setLatch l).cyclesLeft = s.cyclesLeft := rfl
@[simp] theorem State.setLatch_hostOps : (s.setLatch l).hostOps = s.hostOps := rfl
end

section
variable (s : State) (k : Vector Bool 16)
@[simp] theorem State.setKeys_v : (s.setKeys k).v = s.v := rfl
@[simp] theorem State.setKeys_i : (s.setKeys k).i = s.i := rfl
@[simp] theorem State.setKeys_pc : (s.setKeys k).pc = s.pc := rfl
@[simp] theorem State.setKeys_stack : (s.setKeys k).stack = s.stack := rfl
@[simp] theorem State.setKeys_sp : (s.setKeys k).sp = s.sp := rfl
@[simp] theorem State.setKeys_dt : (s.setKeys k).dt = s.dt := rfl
@[simp] theorem State.setKeys_st : (s.setKeys k).st = s.st := rfl
@[simp] theorem State.setKeys_mode : (s.setKeys k).mode = s.mode := rfl
@[simp] theorem State.setKeys_fb : (s.setKeys k).fb = s.fb := rfl
@[simp] theorem State.setKeys_keys : (s.setKeys k).keys = k := rfl
@[simp] theorem State.setKeys_latch : (s.setKeys k).latch = s.latch := rfl
@[simp] theorem State.setKeys_unknownCount : (s.setKeys k).unknownCount = s.unknownCount := rfl
@[simp] theorem State.setKeys_mem : (s.setKeys k).mem = s.mem := rfl
@[simp] theorem State.setKeys_draws : (s.setKeys k).draws = s.draws := rfl
@[simp] theorem State.setKeys_cyclesPerStep : (s.setKeys k).cyclesPerStep = s.cyclesPerStep := rfl
@[simp] theorem State.setKeys_cyclesLeft : (s.setKeys k).cyclesLeft = s.cyclesLeft := rfl
@[simp] theorem State.setKeys_hostOps : (s.setKeys k).hostOps = s.hostOps := rfl
end

section
variable (s : State) (m : Memory)
@[simp] theorem State.setMem_v : (s.setMem m).v = s.v := rfl
@[simp] theorem State.setMem_i : (s.setMem m).i = s.i := rfl
@[simp] theorem State.setMem_pc : (s.setMem m).pc = s.pc := rfl
@[simp] theorem State.setMem_stack : (s.setMem m).stack = s.stack := rfl
@[simp] theorem State.setMem_sp : (s.setMem m).sp = s.sp := rfl
@[simp] theorem State.setMem_dt : (s.setMem m).dt = s.dt := rfl
@[simp] theorem State.setMem_st : (s.setMem m).st = s.st := rfl
@[simp] theorem State.setMem_mode : (s.setMem m).mode = s.mode := rfl
@[simp] theorem State.setMem_fb : (s.setMem m).fb = s.fb := rfl
@[simp] theorem State.setMem_keys : (s.setMem m).keys = s.keys := rfl
@[simp] theorem State.setMem_latch : (s.setMem m).latch = s.latch := rfl
@[simp] theorem State.setMem_unknownCount : (s.setMem m).unknownCount = s.unknownCount := rfl
@[simp] theorem State.setMem_mem : (s.setMem m).mem = m := rfl
@[simp] theorem State.setMem_draws : (s.setMem m).draws = s.draws := rfl
@[simp] theorem State.setMem_cyclesPerStep : (s.setMem m).cyclesPerStep = s.cyclesPerStep := rfl
@[simp] theorem State.setMem_cyclesLeft : (s.setMem m).cyclesLeft = s.cyclesLeft := rfl
@[simp] theorem State.setMem_hostOps : (s.setMem m).hostOps = s.hostOps := rfl
end

section
variable (s : State)
@[simp] theorem State.countDraw_v : s.countDraw.v = s.v := rfl
@[simp] theorem State.countDraw_i : s.countDraw.i = s.i := rfl
@[simp] theorem State.countDraw_pc : s.countDraw.pc = s.pc := rfl
@[simp] theorem State.countDraw_stack : s.countDraw.stack = s.stack := rfl
@[simp] theorem State.countDraw_sp : s.countDraw.sp = s.sp := rfl
@[simp] theorem State.countDraw_dt : s.countDraw.dt = s.dt := rfl
@[simp] theorem State.countDraw_st : s.countDraw.st = s.st := rfl
@[simp] theorem State.countDraw_mode : s.countDraw.mode = s.mode := rfl
@[simp] theorem State.countDraw_fb : s.countDraw.fb = s.fb := rfl
@[simp] theorem State.countDraw_keys : s.countDraw.keys = s.keys := rfl
@[simp] theorem State.countDraw_latch : s.countDraw.latch = s.latch := rfl
@[simp] theorem State.countDraw_unknownCount : s.countDraw.unknownCount = s.unknownCount := rfl
@[simp] theorem State.countDraw_mem : s.countDraw.mem = s.mem := rfl
@[simp] theorem State.countDraw_draws : s.countDraw.draws = s.draws + 1 := rfl
@[simp] theorem State.countDraw_cyclesPerStep : s.countDraw.cyclesPerStep = s.cyclesPerStep := rfl
@[simp] theorem State.countDraw_cyclesLeft : s.countDraw.cyclesLeft = s.cyclesLeft := rfl
@[simp] theorem State.countDraw_hostOps : s.countDraw.hostOps = s.hostOps := rfl
end

section
variable (s : State)
@[simp] theorem State.reportUnrecognized_v : s.reportUnrecognized.v = s.v := rfl
@[simp] theorem State.reportUnrecognized_i : s.reportUnrecognized.i = s.i := rfl
@[simp] theorem State.reportUnrecognized_pc : s.reportUnrecognized.pc = s.pc := rfl
@[simp] theorem State.reportUnrecognized_stack : s.reportUnrecognized.stack = s.stack := rfl
@[simp] theorem State.reportUnrecognized_sp : s.reportUnrecognized.sp = s.sp := rfl
@[simp] theorem State.reportUnrecognized_dt : s.reportUnrecognized.dt = s.dt := rfl
@[simp] theorem State.reportUnrecognized_st : s.reportUnrecognized.st = s.st := rfl
@[simp] theorem State.reportUnrecognized_mode : s.reportUnrecognized.mode = s.mode := rfl
@[simp] theorem State.reportUnrecognized_fb : s.reportUnrecognized.fb = s.fb := rfl
@[simp] theorem State.reportUnrecognized_keys : s.reportUnrecognized.keys = s.keys := rfl
@[simp] theorem State.reportUnrecognized_latch : s.reportUnrecognized.latch = s.latch := rfl
@[simp] theorem State.reportUnrecognized_unknownCount : s.reportUnrecognized.unknownCount = s.unknownCount + 1 := rfl
@[simp] theorem State.reportUnrecognized_mem : s.reportUnrecognized.mem = s.mem := rfl
@[simp] theorem State.reportUnrecognized_draws : s.reportUnrecognized.draws = s.draws := rfl
@[simp] theorem State.reportUnrecognized_cyclesPerStep : s.reportUnrecognized.cyclesPerStep = s.cyclesPerStep := rfl
@[simp] theorem State.reportUnrecognized_cyclesLeft : s.reportUnrecognized.cyclesLeft = s.cyclesLeft := rfl
@[simp] theorem State.reportUnrecognized_hostOps : s.reportUnrecognized.hostOps = s.hostOps := rfl
end

section
variable (s : State)
@[simp] theorem State.pop_v : s.pop.v = s.v := rfl
@[simp] theorem State.pop_i : s.pop.i = s.i := rfl
@[simp] theorem State.pop_pc : s.pop.pc = s.pc := rfl
@[simp] theorem State.pop_stack : s.pop.stack = s.stack := rfl
@[simp] theorem State.pop_dt : s.pop.dt = s.dt := rfl
@[simp] theorem State.pop_st : s.pop.st = s.st := rfl
@[simp] theorem State.pop_mode : s.pop.mode = s.mode := rfl
@[simp] theorem State.pop_fb : s.pop.fb = s.fb := rfl
@[simp] theorem State.pop_keys : s.pop.keys = s.keys := rfl
@[simp] theorem State.pop_latch : s.pop.latch = s.latch := rfl
@[simp] theorem State.pop_unknownCount : s.pop.unknownCount = s.unknownCount := rfl
@[simp] theorem State.pop_mem : s.pop.mem = s.mem := rfl
@[simp] theorem State.pop_draws : s.pop.draws = s.draws := rfl
@[simp] theorem State.pop_cyclesPerStep : s.pop.cyclesPerStep = s.cyclesPerStep := rfl
@[simp] theorem State.pop_cyclesLeft : s.pop.cyclesLeft = s.cyclesLeft := rfl
@[simp] theorem State.pop_hostOps : s.pop.hostOps = s.hostOps := rfl
end

@[simp] theorem State.pop_sp (s : State) : s.pop.sp.val = s.sp.val - 1 := rfl

section
variable (s : State) (a : Addr)
@[simp] theorem State.push_v : (s.push a).v = s.v := by unfold State.push; split <;> rfl
@[simp] theorem State.push_i : (s.push a).i = s.i := by unfold State.push; split <;> rfl
@[simp] theorem State.push_pc : (s.push a).pc = s.pc := by unfold State.push; split <;> rfl
@[simp] theorem State.push_dt : (s.push a).dt = s.dt := by unfold State.push; split <;> rfl
@[simp] theorem State.push_st : (s.push a).st = s.st := by unfold State.push; split <;> rfl
@[simp] theorem State.push_mode : (s.push a).mode = s.mode := by unfold State.push; split <;> rfl
@[simp] theorem State.push_fb : (s.push a).fb = s.fb := by unfold State.push; split <;> rfl
@[simp] theorem State.push_keys : (s.push a).keys = s.keys := by unfold State.push; split <;> rfl
@[simp] theorem State.push_latch : (s.push a).latch = s.latch := by unfold State.push; split <;> rfl
@[simp] theorem State.push_unknownCount : (s.push a).unknownCount = s.unknownCount := by unfold State.push; split <;> rfl
@[simp] theorem State.push_mem : (s.push a).mem = s.mem := by unfold State.push; split <;> rfl
@[simp] theorem State.push_draws : (s.push a).draws = s.draws := by unfold State.push; split <;> rfl
@[simp] theorem State.push_cyclesPerStep : (s.push a).cyclesPerStep = s.cyclesPerStep := by unfold State.push; split <;> rfl
@[simp] theorem State.push_cyclesLeft : (s.push a).cyclesLeft = s.cyclesLeft := by unfold State.push; split <;> rfl
@[simp] theorem State.push_hostOps : (s.push a).hostOps = s.hostOps := by unfold State.push; split <;> rfl
end

theorem State.push_of_lt {s : State} (h : s.sp.val < Config.stackDepth) (a : Addr) :
    (s.push a).stack = s.stack.set s.sp.val a ∧ (s.push a).sp.val = s.sp.val + 1 := by
  simp [State.push, h]

/-! ### The shared operations as updates -/

@[simp] theorem State.advance_eq (s : State) : s.advance = s.setPc (s.pc + 2) := rfl

@[simp] theorem State.skipIf_eq (s : State) (c : Bool) :
    s.skipIf c = s.setPc (if c then s.pc + 4 else s.pc + 2) := rfl

@[simp] theorem State.memWriteBytes_eq (s : State) (a : Nat) (bs : List Byte) :
    s.memWriteBytes a bs = s.setMem (s.mem.writeBytes a bs) := rfl

@[simp] theorem State.setFlag_eq (s : State) (b : Bool) : s.setFlag b = s.setReg vF (flagByte b) := rfl

@[simp] theorem State.setResultAndFlag_eq (s : State) (x : RegIdx) (r : Byte) (b : Bool) :
    s.setResultAndFlag x r b = (s.setReg x r).setReg vF (flagByte b) := rfl

@[simp] theorem State.stepI_eq (s : State) (x : RegIdx) :
    s.stepI x = s.setI (s.i + BitVec.ofNat 16 (x.val + 1)) := rfl

@[simp] theorem State.tickTimers_eq (s : State) : s.tickTimers = (s.setDt (tick s.dt)).setSt (tick s.st) := rfl

/-! ### Registers -/

@[simp] theorem State.reg_setReg (s : State) (k j : RegIdx) (b : Byte) :
    (s.setReg k b).reg j = if j = k then b else s.reg j := by
  simp [State.reg, State.setReg, Vector.getElem_set, Fin.ext_iff, eq_comm]

@[simp] theorem State.reg_setRegs (s : State) (f : RegIdx → Byte) (j : RegIdx) : (s.setRegs f).reg j = f j := by
  simp [State.reg, State.setRegs]

@[simp] theorem State.reg_setI (s : State) (w : Word) (j : RegIdx) : (s.setI w).reg j = s.reg j := rfl
@[simp] theorem State.reg_setPc (s : State) (a : Addr) (j : RegIdx) : (s.setPc a).reg j = s.reg j := rfl
@[simp] theorem State.reg_setDt (s : State) (b : Byte) (j : RegIdx) : (s.setDt b).reg j = s.reg j := rfl
@[simp] theorem State.reg_setSt (s : State) (b : Byte) (j : RegIdx) : (s.setSt b).reg j = s.reg j := rfl
@[simp] theorem State.reg_setMode (s : State) (m : DisplayMode) (j : RegIdx) : (s.setMode m).reg j = s.reg j := rfl
@[simp] theorem State.reg_setFb (s : State) (g : Framebuffer) (j : RegIdx) : (s.setFb g).reg j = s.reg j := rfl
@[simp] theorem State.reg_setLatch (s : State) (l : KeyLatch) (j : RegIdx) : (s.setLatch l).reg j = s.reg j := rfl
@[simp] theorem State.reg_setKeys (s : State) (k : Vector Bool 16) (j : RegIdx) : (s.setKeys k).reg j = s.reg j := rfl
@[simp] theorem State.reg_setMem (s : State) (m : Memory) (j : RegIdx) : (s.setMem m).reg j = s.reg j := rfl
@[simp] theorem State.reg_countDraw (s : State) (j : RegIdx) : s.countDraw.reg j = s.reg j := rfl
@[simp] theorem State.reg_reportUnrecognized (s : State) (j : RegIdx) : s.reportUnrecognized.reg j = s.reg j := rfl
@[simp] theorem State.reg_pop (s : State) (j : RegIdx) : s.pop.reg j = s.reg j := rfl
@[simp] theorem State.reg_push (s : State) (a : Addr) (j : RegIdx) : (s.push a).reg j = s.reg j := by
  simp [State.reg]

/-! ### Memory and pixels -/

@[simp] theorem State.memRead_setReg (s : State) (k : RegIdx) (b : Byte) (j : Nat) : (s.setReg k b).memRead j = s.memRead j := rfl
@[simp] theorem State.memRead_setRegs (s : State) (f : RegIdx → Byte) (j : Nat) : (s.setRegs f).memRead j = s.memRead j := rfl
@[simp] theorem State.memRead_setI (s : State) (w : Word) (j : Nat) : (s.setI w).memRead j = s.memRead j := rfl
@[simp] theorem State.memRead_setPc (s : State) (a : Addr) (j : Nat) : (s.setPc a).memRead j = s.memRead j := rfl
@[simp] theorem State.memRead_setDt (s : State) (b : Byte) (j : Nat) : (s.setDt b).memRead j = s.memRead j := rfl
@[simp] theorem State.memRead_setSt (s : State) (b : Byte) (j : Nat) : (s.setSt b).memRead j = s.memRead j := rfl
@[simp] theorem State.memRead_setMode (s : State) (m : DisplayMode) (j : Nat) : (s.setMode m).memRead j = s.memRead j := rfl
@[simp] theorem State.memRead_setFb (s : State) (g : Framebuffer) (j : Nat) : (s.setFb g).memRead j = s.memRead j := rfl
@[simp] theorem State.memRead_setLatch (s : State) (l : KeyLatch) (j : Nat) : (s.setLatch l).memRead j = s.memRead j := rfl
@[simp] theorem State.memRead_setKeys (s : State) (k : Vector Bool 16) (j : Nat) : (s.setKeys k).memRead j = s.memRead j := rfl
@[simp] theorem State.memRead_countDraw (s : State) (j : Nat) : s.countDraw.memRead j = s.memRead j := rfl
@[simp] theorem State.memRead_reportUnrecognized (s : State) (j : Nat) : s.reportUnrecognized.memRead j = s.memRead j := rfl
@[simp] theorem State.memRead_pop (s : State) (j : Nat) : s.pop.memRead j = s.memRead j := rfl
@[simp] theorem State.memRead_push (s : State) (a : Addr) (j : Nat) : (s.push a).memRead j = s.memRead j := by
  simp [State.memRead]
@[simp] theorem State.memRead_setMem (s : State) (m : Memory) (j : Nat) : (s.setMem m).memRead j = m.read j := rfl

@[simp] theorem State.pixel_setReg (s : State) (k : RegIdx) (b : Byte) (y x : Nat) : (s.setReg k b).pixel y x = s.pixel y x := rfl
@[simp] theorem State.pixel_setRegs (s : State) (f : RegIdx → Byte) (y x : Nat) : (s.setRegs f).pixel y x = s.pixel y x := rfl
@[simp] theorem State.pixel_setI (s : State) (w : Word) (y x : Nat) : (s.setI w).pixel y x = s.pixel y x := rfl
@[simp] theorem State.pixel_setPc (s : State) (a : Addr) (y x : Nat) : (s.setPc a).pixel y x = s.pixel y x := rfl
@[simp] theorem State.pixel_setDt (s : State) (b : Byte) (y x : Nat) : (s.setDt b).pixel y x = s.pixel y x := rfl
@[simp] theorem State.pixel_setSt (s : State) (b : Byte) (y x : Nat) : (s.setSt b).pixel y x = s.pixel y x := rfl
@[simp] theorem State.pixel_setMode (s : State) (m : DisplayMode) (y x : Nat) : (s.setMode m).pixel y x = s.pixel y x := rfl
@[simp] theorem State.pixel_setLatch (s : State) (l : KeyLatch) (y x : Nat) : (s.setLatch l).pixel y x = s.pixel y x := rfl
@[simp] theorem State.pixel_setKeys (s : State) (k : Vector Bool 16) (y x : Nat) : (s.setKeys k).pixel y x = s.pixel y x := rfl
@[simp] theorem State.pixel_setMem (s : State) (m : Memory) (y x : Nat) : (s.setMem m).pixel y x = s.pixel y x := rfl
@[simp] theorem State.pixel_countDraw (s : State) (y x : Nat) : s.countDraw.pixel y x = s.pixel y x := rfl
@[simp] theorem State.pixel_reportUnrecognized (s : State) (y x : Nat) : s.reportUnrecognized.pixel y x = s.pixel y x := rfl
@[simp] theorem State.pixel_pop (s : State) (y x : Nat) : s.pop.pixel y x = s.pixel y x := rfl
@[simp] theorem State.pixel_push (s : State) (a : Addr) (y x : Nat) : (s.push a).pixel y x = s.pixel y x := by
  simp [State.pixel]
@[simp] theorem State.pixel_setFb (s : State) (g : Framebuffer) (y x : Nat) : (s.setFb g).pixel y x = g.pixel y x :=
  rfl

end Sys2Proof.Machine
end

