-- ==== Sys2Proof/Laws/Host.lean ====
section
/-! SUPPORT. What a host operation leaves alone of the host's own fields, and what the host's turn does with its next
operation. -/

namespace Sys2Proof.Machine

@[simp] theorem State.serve_hostOps (s : State) (op : HostOp) : (s.serve op).hostOps = s.hostOps := by
  cases op <;> simp only [State.serve, State.loadProgram, State.setKey, State.beginStep]
  · rfl
  · split
    · rfl
    · split <;> rfl
  · split
    · split <;> rfl
    · rfl
  · split <;> rfl

@[simp] theorem State.serve_cyclesPerStep (s : State) (op : HostOp) :
    (s.serve op).cyclesPerStep = s.cyclesPerStep := by
  cases op <;> simp only [State.serve, State.loadProgram, State.setKey, State.beginStep]
  · rfl
  · split
    · rfl
    · split <;> rfl
  · split
    · split <;> rfl
    · rfl
  · split <;> rfl

/-- Only a `step()` begins cycles. -/
theorem State.serve_cyclesLeft {op : HostOp} (h : op ≠ .step) (s : State) :
    (s.serve op).cyclesLeft = s.cyclesLeft := by
  cases op <;> simp only [State.serve, State.loadProgram, State.setKey]
  · rfl
  · split
    · rfl
    · split <;> rfl
  · split
    · split <;> rfl
    · rfl
  · exact absurd rfl h

/-- An operation that leaves no cycle to run is followed by the next one. -/
theorem hostTurn_cons_of_idle {op : HostOp} {s : State} (h : (s.serve op).cyclesLeft = 0) (rest : List HostOp) :
    hostTurn (op :: rest) s = hostTurn rest (s.serve op) := by
  simp only [hostTurn, h, if_true]

/-- An operation that leaves cycles to run ends the host's turn. -/
theorem hostTurn_cons_of_busy {op : HostOp} {s : State} (h : (s.serve op).cyclesLeft ≠ 0) (rest : List HostOp) :
    hostTurn (op :: rest) s = { s.serve op with hostOps := rest } := by
  simp only [hostTurn, h, if_false]

end Sys2Proof.Machine
end

