-- ==== Sys2Proof/Laws/Memory.lean ====
section
/-! SUPPORT. What the memory operations do (read after write, writes of several bytes), and that each keeps the
canonical form. -/

namespace Sys2Proof.Machine

/-! ### Read after write -/

theorem Memory.lookup_erase_same (m : Memory) (a : Nat) : (m.erase a).lookup a = resetByte a := by
  induction m with
  | nil => rfl
  | cons c m ih =>
    by_cases h : c.1 = a
    · simpa [Memory.erase, h] using ih
    · have h' : a ≠ c.1 := fun e => h e.symm
      simpa [Memory.erase, Memory.lookup, h, h'] using ih

theorem Memory.lookup_erase_other (m : Memory) {a b : Nat} (hab : b ≠ a) :
    (m.erase a).lookup b = m.lookup b := by
  induction m with
  | nil => rfl
  | cons c m ih =>
    by_cases h : c.1 = a
    · have hb : b ≠ c.1 := by omega
      simpa [Memory.erase, Memory.lookup, h, hb, hab] using ih
    · by_cases hb : b = c.1
      · simp [Memory.erase, Memory.lookup, h, hb]
      · simpa [Memory.erase, Memory.lookup, h, hb] using ih

theorem Memory.lookup_place_other (m : Memory) {a b : Nat} (hab : b ≠ a) (v : Byte) :
    (m.place a v).lookup b = m.lookup b := by
  induction m with
  | nil => simp [Memory.place, Memory.lookup, hab]
  | cons c m ih =>
    by_cases h : a < c.1
    · simp [Memory.place, Memory.lookup, h, hab]
    · simp [Memory.place, Memory.lookup, h, ih]

theorem Memory.lookup_place_same (m : Memory) {a : Nat} (hm : ∀ c ∈ m, c.1 ≠ a) (v : Byte) :
    (m.place a v).lookup a = v := by
  induction m with
  | nil => simp [Memory.place, Memory.lookup]
  | cons c m ih =>
    have hc : a ≠ c.1 := fun e => hm c (by simp) e.symm
    by_cases h : a < c.1
    · simp [Memory.place, Memory.lookup, h]
    · simpa [Memory.place, Memory.lookup, h, hc] using ih fun d hd => hm d (by simp [hd])

theorem Memory.not_mem_erase (m : Memory) (a : Nat) : ∀ c ∈ m.erase a, c.1 ≠ a := by
  intro c hc
  simpa [Memory.erase] using (List.mem_filter.mp hc).2

theorem Memory.lookup_insert (m : Memory) (a b : Nat) (v : Byte) :
    (m.insert a v).lookup b = if b = a then v else m.lookup b := by
  unfold Memory.insert
  by_cases hb : b = a
  · subst hb
    split
    · rename_i hv
      simp [Memory.lookup_erase_same, hv]
    · simpa using Memory.lookup_place_same _ (Memory.not_mem_erase m b) v
  · split
    · rw [Memory.lookup_erase_other m hb]
    · rw [Memory.lookup_place_other _ hb, Memory.lookup_erase_other m hb]

/-- A read gives the value of the last write to the same byte, and other bytes keep theirs (R61, R70). -/
theorem Memory.read_write (m : Memory) (a b : Nat) (v : Byte) :
    (m.write a v).read b = if wrapAddr b = wrapAddr a then v else m.read b :=
  Memory.lookup_insert m _ _ v

theorem Memory.read_wrap (m : Memory) (a : Nat) : m.read (a % 4096) = m.read a := by
  simp [Memory.read, wrapAddr]

/-- Several bytes written leave every other byte alone. -/
theorem Memory.read_writeBytes_outside (bs : List Byte) : ∀ (m : Memory) (a b : Nat),
    (∀ k, k < bs.length → wrapAddr b ≠ wrapAddr (a + k)) → (m.writeBytes a bs).read b = m.read b := by
  induction bs with
  | nil => intro m a b _; rfl
  | cons c bs ih =>
    intro m a b h
    have h0 : wrapAddr b ≠ wrapAddr a := by simpa using h 0 (by simp)
    rw [Memory.writeBytes, ih (m.write a c) (a + 1) b ?_, Memory.read_write, if_neg h0]
    intro k hk
    have := h (k + 1) (by simpa using hk)
    rwa [show a + 1 + k = a + (k + 1) by omega]

/-- Several bytes written, no more than memory holds, are each read back. -/
theorem Memory.read_writeBytes_inside (bs : List Byte) : ∀ (m : Memory) (a k : Nat) (hk : k < bs.length),
    bs.length ≤ 4096 → (m.writeBytes a bs).read (a + k) = bs[k] := by
  induction bs with
  | nil => intro m a k hk; simp at hk
  | cons c bs ih =>
    intro m a k hk hl
    cases k with
    | zero =>
      rw [Memory.writeBytes, Memory.read_writeBytes_outside, Memory.read_write]
      · simp
      · intro k hk
        simp only [List.length_cons] at hl
        simp only [wrapAddr, memSize]
        omega
    | succ k =>
      have := ih (m.write a c) (a + 1) k (by simpa using hk) (by simp at hl ⊢; omega)
      rw [Memory.writeBytes, show a + (k + 1) = a + 1 + k by omega, this]
      rfl

/-! ### The canonical form -/

theorem Memory.wfFrom_cons {lo : Nat} {c : Host.Cell} {m : Memory} :
    Memory.wfFrom lo (c :: m) = true ↔
      lo ≤ c.1 ∧ c.1 < memSize ∧ c.2 ≠ resetByte c.1 ∧ Memory.wfFrom (c.1 + 1) m = true := by
  obtain ⟨k, b⟩ := c
  simp [Memory.wfFrom, and_assoc]

theorem Memory.wfFrom_mono {lo lo' : Nat} (h : lo' ≤ lo) {m : Memory} (hm : Memory.wfFrom lo m = true) :
    Memory.wfFrom lo' m = true := by
  cases m with
  | nil => rfl
  | cons c m =>
    rw [Memory.wfFrom_cons] at hm ⊢
    exact ⟨by omega, hm.2⟩

theorem Memory.wfFrom_erase (a : Nat) : ∀ {lo : Nat} {m : Memory}, Memory.wfFrom lo m = true →
    Memory.wfFrom lo (m.erase a) = true := by
  intro lo m
  induction m generalizing lo with
  | nil => exact id
  | cons c m ih =>
    intro hm
    rw [Memory.wfFrom_cons] at hm
    obtain ⟨h1, h2, h3, h4⟩ := hm
    by_cases h : c.1 = a
    · have he : Memory.erase (c :: m) a = Memory.erase m a := by simp [Memory.erase, h]
      rw [he]
      exact Memory.wfFrom_mono (by omega) (ih h4)
    · have he : Memory.erase (c :: m) a = c :: Memory.erase m a := by simp [Memory.erase, h]
      rw [he, Memory.wfFrom_cons]
      exact ⟨h1, h2, h3, ih h4⟩

theorem Memory.wfFrom_place {a : Nat} (ha : a < memSize) {v : Byte} (hv : v ≠ resetByte a) :
    ∀ {lo : Nat} {m : Memory}, lo ≤ a → (∀ c ∈ m, c.1 ≠ a) → Memory.wfFrom lo m = true →
      Memory.wfFrom lo (m.place a v) = true := by
  intro lo m
  induction m generalizing lo with
  | nil => intro hlo _ _; simpa [Memory.place, Memory.wfFrom] using ⟨⟨hlo, ha⟩, hv⟩
  | cons c m ih =>
    intro hlo hne hm
    rw [Memory.wfFrom_cons] at hm
    obtain ⟨h1, h2, h3, h4⟩ := hm
    have hc : c.1 ≠ a := hne c (by simp)
    unfold Memory.place
    split
    · rw [Memory.wfFrom_cons, Memory.wfFrom_cons]
      exact ⟨hlo, ha, hv, by omega, h2, h3, h4⟩
    · rw [Memory.wfFrom_cons]
      exact ⟨h1, h2, h3, ih (by omega) (fun d hd => hne d (by simp [hd])) h4⟩

/-- A write keeps the canonical form. -/
theorem Memory.wf_write (m : Memory) (a : Nat) (v : Byte) (h : m.wf = true) : (m.write a v).wf = true := by
  unfold Memory.write Memory.insert
  have he := Memory.wfFrom_erase (wrapAddr a) h
  split
  · exact he
  · rename_i hv
    exact Memory.wfFrom_place (Nat.mod_lt _ (by decide)) hv (Nat.zero_le _) (Memory.not_mem_erase m _) he

/-- Writes of several bytes keep the canonical form. -/
theorem Memory.wf_writeBytes (bs : List Byte) : ∀ (m : Memory) (a : Nat), m.wf = true →
    (m.writeBytes a bs).wf = true := by
  induction bs with
  | nil => intro m a h; exact h
  | cons c bs ih => intro m a h; exact ih _ _ (Memory.wf_write m a c h)

/-- Reset memory, which lists nothing, is in the canonical form. -/
theorem Memory.wf_nil : Memory.wf [] = true := rfl

/-- Reset memory reads as its reset contents. -/
theorem Memory.read_nil (a : Nat) : Memory.read [] a = resetByte (wrapAddr a) := rfl

/-! ### The fonts (R8) -/

/-- The font bases are a legal pair. -/
theorem fontBases_legal : fontBasesLegal fontBases = true := by
  unfold fontBases
  split
  · assumption
  · decide

theorem fontBases_bounds : smallFontBase + 80 ≤ 0x200 ∧ bigFontBase + 100 ≤ 0x200 ∧
    (smallFontBase + 80 ≤ bigFontBase ∨ bigFontBase + 100 ≤ smallFontBase) := by
  simpa [fontBasesLegal, and_assoc, smallFontBase, bigFontBase] using fontBases_legal

end Sys2Proof.Machine
end

