-- ==== Sys2Proof/Laws/Ops.lean ====
section
/-! SUPPORT. What the shared operations over the stack, the program counter, flags and the key latch do, and the
meanings that branch, one equation per branch. -/

namespace Sys2Proof.Machine

/-! ### The stack -/

theorem State.sp_le (s : State) : s.sp.val ≤ 16 := Nat.le_of_lt_succ s.sp.isLt

@[simp] theorem State.stackFull_iff (s : State) : s.stackFull = true ↔ s.sp.val = 16 := by
  simp [State.stackFull]

theorem State.top?_of_pos {s : State} (h : 0 < s.sp.val) : s.top? = some (s.stack[s.sp.val - 1]?.getD 0) := by
  have := s.sp_le
  unfold State.top?
  rw [if_neg (by omega)]
  simp [show s.sp.val - 1 < 16 by omega]

theorem State.top?_of_zero {s : State} (h : s.sp.val = 0) : s.top? = none := by simp [State.top?, h]

/-- The entries of the stack after a push onto one that is not full. -/
theorem State.push_stack_getElem? {s : State} (h : s.sp.val < 16) (a : Addr) (k : Nat) :
    (s.push a).stack[k]? = if k = s.sp.val then some a else s.stack[k]? := by
  rw [(State.push_of_lt h a).1, Vector.getElem?_set]
  by_cases hk : s.sp.val = k
  · rw [if_pos hk, if_pos hk.symm]
  · rw [if_neg hk, if_neg fun e => hk e.symm]

/-! ### The program counter, modulo 4096 (R25) -/

theorem pc_add_two (a : Addr) : (a + 2).toNat = (a.toNat + 2) % 4096 := by simp [BitVec.toNat_add]

theorem pc_add_four (a : Addr) : (a + 4).toNat = (a.toNat + 4) % 4096 := by simp [BitVec.toNat_add]

/-! ### Flags -/

theorem flagByte_zero_or_one (b : Bool) : flagByte b = 0 ∨ flagByte b = 1 := by cases b <;> simp [flagByte]

theorem toNat_flagByte (b : Bool) : (flagByte b).toNat = if b then 1 else 0 := by cases b <;> rfl

/-! ### The meanings that branch -/

theorem exec_ret_of_pos {s : State} (h : 0 < s.sp.val) :
    exec .ret s = .next (s.pop.setPc (s.stack[s.sp.val - 1]?.getD 0 + 2)) := by
  simp only [exec, execRet, State.top?_of_pos h]

theorem exec_ret_of_zero {s : State} (h : s.sp.val = 0) : exec .ret s = .next s.advance := by
  simp only [exec, execRet, State.top?_of_zero h]

theorem exec_call_of_room {s : State} (h : s.sp.val < 16) (nnn : Addr) :
    exec (.call nnn) s = .next ((s.push s.pc).setPc nnn) := by
  simp only [exec, execCall]
  rw [if_neg (by rw [State.stackFull_iff]; omega)]

theorem exec_call_of_full {s : State} (h : s.sp.val = 16) (nnn : Addr) :
    exec (.call nnn) s = .next s.advance := by
  simp only [exec, execCall]
  rw [if_pos (by rw [State.stackFull_iff]; exact h)]

theorem exec_ldVxK_of_pending {s : State} (h : s.latch.pending = true) (x : RegIdx) :
    exec (.ldVxK x) s = .next ((s.setReg x (BitVec.ofNat 8 s.latch.key.val)).setLatch
      { s.latch with pending := false }).advance := by
  simp only [exec, execLdVxK, h]

theorem exec_ldVxK_of_not_pending {s : State} (h : s.latch.pending = false) (x : RegIdx) :
    exec (.ldVxK x) s = .next s := by
  simp only [exec, execLdVxK, h]

/-! ### `DRW` and `ADD I, Vx`: the fields they leave alone -/

section
variable (e : DrawEdge) (d : Dxy0Standard) (q : Bool) (x y : RegIdx) (n : BitVec 4) (s : State)
@[simp] theorem drwWith_i : (drwWith e d x y n s).i = s.i := by simp [drwWith]
@[simp] theorem drwWith_stack : (drwWith e d x y n s).stack = s.stack := by simp [drwWith]
@[simp] theorem drwWith_sp : (drwWith e d x y n s).sp = s.sp := by simp [drwWith]
@[simp] theorem drwWith_dt : (drwWith e d x y n s).dt = s.dt := by simp [drwWith]
@[simp] theorem drwWith_st : (drwWith e d x y n s).st = s.st := by simp [drwWith]
@[simp] theorem drwWith_mode : (drwWith e d x y n s).mode = s.mode := by simp [drwWith]
@[simp] theorem drwWith_keys : (drwWith e d x y n s).keys = s.keys := by simp [drwWith]
@[simp] theorem drwWith_latch : (drwWith e d x y n s).latch = s.latch := by simp [drwWith]
@[simp] theorem drwWith_unknownCount : (drwWith e d x y n s).unknownCount = s.unknownCount := by simp [drwWith]
@[simp] theorem drwWith_mem : (drwWith e d x y n s).mem = s.mem := by simp [drwWith]
@[simp] theorem drwWith_draws : (drwWith e d x y n s).draws = s.draws := by simp [drwWith]
@[simp] theorem drwWith_cyclesPerStep : (drwWith e d x y n s).cyclesPerStep = s.cyclesPerStep := by simp [drwWith]
@[simp] theorem drwWith_cyclesLeft : (drwWith e d x y n s).cyclesLeft = s.cyclesLeft := by simp [drwWith]
@[simp] theorem drwWith_hostOps : (drwWith e d x y n s).hostOps = s.hostOps := by simp [drwWith]
@[simp] theorem drwWith_memRead (a : Nat) : (drwWith e d x y n s).memRead a = s.memRead a := by simp [drwWith]
@[simp] theorem drwWith_pc : (drwWith e d x y n s).pc = s.pc + 2 := by simp [drwWith]
@[simp] theorem addIWith_stack : (addIWith q x s).stack = s.stack := by simp [addIWith]
@[simp] theorem addIWith_sp : (addIWith q x s).sp = s.sp := by simp [addIWith]
@[simp] theorem addIWith_dt : (addIWith q x s).dt = s.dt := by simp [addIWith]
@[simp] theorem addIWith_st : (addIWith q x s).st = s.st := by simp [addIWith]
@[simp] theorem addIWith_mode : (addIWith q x s).mode = s.mode := by simp [addIWith]
@[simp] theorem addIWith_fb : (addIWith q x s).fb = s.fb := by simp [addIWith]
@[simp] theorem addIWith_keys : (addIWith q x s).keys = s.keys := by simp [addIWith]
@[simp] theorem addIWith_latch : (addIWith q x s).latch = s.latch := by simp [addIWith]
@[simp] theorem addIWith_unknownCount : (addIWith q x s).unknownCount = s.unknownCount := by simp [addIWith]
@[simp] theorem addIWith_mem : (addIWith q x s).mem = s.mem := by simp [addIWith]
@[simp] theorem addIWith_draws : (addIWith q x s).draws = s.draws := by simp [addIWith]
@[simp] theorem addIWith_cyclesPerStep : (addIWith q x s).cyclesPerStep = s.cyclesPerStep := by simp [addIWith]
@[simp] theorem addIWith_cyclesLeft : (addIWith q x s).cyclesLeft = s.cyclesLeft := by simp [addIWith]
@[simp] theorem addIWith_hostOps : (addIWith q x s).hostOps = s.hostOps := by simp [addIWith]
@[simp] theorem addIWith_memRead (a : Nat) : (addIWith q x s).memRead a = s.memRead a := by simp [addIWith]
@[simp] theorem addIWith_pixel (a b : Nat) : (addIWith q x s).pixel a b = s.pixel a b := by simp [addIWith]
@[simp] theorem addIWith_i : (addIWith q x s).i = addToI s.i (s.reg x) := by simp [addIWith]
@[simp] theorem addIWith_pc : (addIWith q x s).pc = s.pc + 2 := by simp [addIWith]
end

end Sys2Proof.Machine
end

