-- ==== Sys2Proof/Laws/PerInstr.lean ====
section
/-! SUPPORT. The per-instruction family `RowOfEncoding`: the word of every instruction selects a row of the opcode
map (R97), and that row stands for the instruction; a word of R98's list stands for itself. -/

namespace Sys2Proof.Laws.RowOfEncoding

/-- What the family says of an instruction: a row of R97 is selected by its word and stands for it, or it is an
unrecognized word, kept whole. -/
def Statement (i : Instr) : Prop :=
  (∃ row ∈ opcodeMap, encode i &&& row.mask = row.pattern ∧ row.build (encode i) = i) ∨
    ∃ w, i = .unrecognized w ∧ encode i = w

theorem row_mem {row : OpcodeRow} (k : Nat) (h : opcodeMap[k]? = some row) : row ∈ opcodeMap :=
  List.mem_of_getElem? h

/-! ### One lemma per instruction -/

theorem cls : Statement .cls :=
  .inl ⟨_, row_mem 0 rfl, rfl, rfl⟩
theorem ret : Statement .ret :=
  .inl ⟨_, row_mem 1 rfl, rfl, rfl⟩
theorem scd (n : BitVec 4) : Statement (.scd n) :=
  .inl ⟨_, row_mem 2 rfl, by revert n; decide, by revert n; decide⟩
theorem scr : Statement .scr :=
  .inl ⟨_, row_mem 3 rfl, rfl, rfl⟩
theorem scl : Statement .scl :=
  .inl ⟨_, row_mem 4 rfl, rfl, rfl⟩
theorem low : Statement .low :=
  .inl ⟨_, row_mem 5 rfl, rfl, rfl⟩
theorem high : Statement .high :=
  .inl ⟨_, row_mem 6 rfl, rfl, rfl⟩
theorem jp (a : Addr) : Statement (.jp a) :=
  .inl ⟨_, row_mem 7 rfl, (addr_and_family _ a).trans (by decide), by simp [encode]⟩
theorem call (a : Addr) : Statement (.call a) :=
  .inl ⟨_, row_mem 8 rfl, (addr_and_family _ a).trans (by decide), by simp [encode]⟩
theorem seImm (x : RegIdx) (nn : Byte) : Statement (.seImm x nn) :=
  .inl ⟨_, row_mem 9 rfl, (byte_and_family _ _ nn).trans (by decide), by simp [encode]⟩
theorem sneImm (x : RegIdx) (nn : Byte) : Statement (.sneImm x nn) :=
  .inl ⟨_, row_mem 10 rfl, (byte_and_family _ _ nn).trans (by decide), by simp [encode]⟩
theorem seReg (x y : RegIdx) : Statement (.seReg x y) :=
  .inl ⟨_, row_mem 11 rfl, (nibbles_and_family _ _ _ _).trans (by decide), by simp [encode]⟩
theorem ldImm (x : RegIdx) (nn : Byte) : Statement (.ldImm x nn) :=
  .inl ⟨_, row_mem 12 rfl, (byte_and_family _ _ nn).trans (by decide), by simp [encode]⟩
theorem addImm (x : RegIdx) (nn : Byte) : Statement (.addImm x nn) :=
  .inl ⟨_, row_mem 13 rfl, (byte_and_family _ _ nn).trans (by decide), by simp [encode]⟩
theorem ldReg (x y : RegIdx) : Statement (.ldReg x y) :=
  .inl ⟨_, row_mem 19 rfl, (nibbles_and_sub _ _ _ _).trans (by decide), by simp [encode]⟩
theorem orReg (x y : RegIdx) : Statement (.orReg x y) :=
  .inl ⟨_, row_mem 20 rfl, (nibbles_and_sub _ _ _ _).trans (by decide), by simp [encode]⟩
theorem andReg (x y : RegIdx) : Statement (.andReg x y) :=
  .inl ⟨_, row_mem 21 rfl, (nibbles_and_sub _ _ _ _).trans (by decide), by simp [encode]⟩
theorem xorReg (x y : RegIdx) : Statement (.xorReg x y) :=
  .inl ⟨_, row_mem 22 rfl, (nibbles_and_sub _ _ _ _).trans (by decide), by simp [encode]⟩
theorem addReg (x y : RegIdx) : Statement (.addReg x y) :=
  .inl ⟨_, row_mem 23 rfl, (nibbles_and_sub _ _ _ _).trans (by decide), by simp [encode]⟩
theorem sub (x y : RegIdx) : Statement (.sub x y) :=
  .inl ⟨_, row_mem 24 rfl, (nibbles_and_sub _ _ _ _).trans (by decide), by simp [encode]⟩
theorem shr (x : RegIdx) : Statement (.shr x) :=
  .inl ⟨_, row_mem 25 rfl, by revert x; decide, by revert x; decide⟩
theorem subn (x y : RegIdx) : Statement (.subn x y) :=
  .inl ⟨_, row_mem 26 rfl, (nibbles_and_sub _ _ _ _).trans (by decide), by simp [encode]⟩
theorem shl (x : RegIdx) : Statement (.shl x) :=
  .inl ⟨_, row_mem 27 rfl, by revert x; decide, by revert x; decide⟩
theorem sneReg (x y : RegIdx) : Statement (.sneReg x y) :=
  .inl ⟨_, row_mem 14 rfl, (nibbles_and_family _ _ _ _).trans (by decide), by simp [encode]⟩
theorem ldI (a : Addr) : Statement (.ldI a) :=
  .inl ⟨_, row_mem 15 rfl, (addr_and_family _ a).trans (by decide), by simp [encode]⟩
theorem jpV0 (a : Addr) : Statement (.jpV0 a) :=
  .inl ⟨_, row_mem 16 rfl, (addr_and_family _ a).trans (by decide), by simp [encode]⟩
theorem rnd (x : RegIdx) (nn : Byte) : Statement (.rnd x nn) :=
  .inl ⟨_, row_mem 17 rfl, (byte_and_family _ _ nn).trans (by decide), by simp [encode]⟩
theorem drw (x y : RegIdx) (n : BitVec 4) : Statement (.drw x y n) :=
  .inl ⟨_, row_mem 18 rfl, (nibbles_and_family _ _ _ _).trans (by decide), by simp [encode]⟩
theorem skp (x : RegIdx) : Statement (.skp x) :=
  .inl ⟨_, row_mem 28 rfl, by revert x; decide, by revert x; decide⟩
theorem sknp (x : RegIdx) : Statement (.sknp x) :=
  .inl ⟨_, row_mem 29 rfl, by revert x; decide, by revert x; decide⟩
theorem ldVxDt (x : RegIdx) : Statement (.ldVxDt x) :=
  .inl ⟨_, row_mem 30 rfl, by revert x; decide, by revert x; decide⟩
theorem ldVxK (x : RegIdx) : Statement (.ldVxK x) :=
  .inl ⟨_, row_mem 31 rfl, by revert x; decide, by revert x; decide⟩
theorem ldDtVx (x : RegIdx) : Statement (.ldDtVx x) :=
  .inl ⟨_, row_mem 32 rfl, by revert x; decide, by revert x; decide⟩
theorem ldStVx (x : RegIdx) : Statement (.ldStVx x) :=
  .inl ⟨_, row_mem 33 rfl, by revert x; decide, by revert x; decide⟩
theorem addI (x : RegIdx) : Statement (.addI x) :=
  .inl ⟨_, row_mem 34 rfl, by revert x; decide, by revert x; decide⟩
theorem ldF (x : RegIdx) : Statement (.ldF x) :=
  .inl ⟨_, row_mem 35 rfl, by revert x; decide, by revert x; decide⟩
theorem ldHf (x : RegIdx) : Statement (.ldHf x) :=
  .inl ⟨_, row_mem 36 rfl, by revert x; decide, by revert x; decide⟩
theorem ldB (x : RegIdx) : Statement (.ldB x) :=
  .inl ⟨_, row_mem 37 rfl, by revert x; decide, by revert x; decide⟩
theorem stRegs (x : RegIdx) : Statement (.stRegs x) :=
  .inl ⟨_, row_mem 38 rfl, by revert x; decide, by revert x; decide⟩
theorem ldRegs (x : RegIdx) : Statement (.ldRegs x) :=
  .inl ⟨_, row_mem 39 rfl, by revert x; decide, by revert x; decide⟩

theorem unrecognized (w : Word) : Statement (.unrecognized w) := .inr ⟨w, rfl, rfl⟩

end Sys2Proof.Laws.RowOfEncoding
end

