-- ==== Sys2Proof/Tests/Slice0.lean ====
section
/-! SUPPORT. The model's own tests. Expected results are those of spec/95_test_vectors.md (the vector's id stands at
each test) or of a rule's own example. Then, for every statement with hypotheses, states that meet them. -/

namespace Sys2Proof.Tests

open Sys2Proof Sys2Proof.Machine Sys2Proof.Claim

/-! ### Helpers -/

/-- The state after one step that runs the word `w`, seen through `f`. -/
def after {α : Type} (s : State) (w : Nat) (f : State → α) : Option α :=
  match step (s.withFetchWord 16 w) with
  | .next t => some (f t)
  | .fault _ => none
  | .refused _ => none

/-- The reset state with some registers set. -/
def regs (l : List (RegIdx × Byte)) : State := l.foldl (fun s p => s.setReg p.1 p.2) State.reset

/-- A state with bytes in memory at 0x300 and `I` there. -/
def atI (s : State) (bytes : List Byte) : State := (s.setI 0x300).memWriteBytes 0x300 bytes

/-- A state with these pixels toggled, as (row, column) pairs. -/
def pixels (s : State) (l : List (Nat × Nat)) : State := s.setFb (l.foldl (fun fb p => fb.toggle p.1 p.2) s.fb)

/-- The set pixels of a framebuffer, as (row, column) pairs. -/
def setPixels (s : State) : List (Nat × Nat) :=
  (List.range 64).flatMap fun y => (List.range 128).filterMap fun x => if s.fb.pixel y x then some (y, x) else none

/-- Whether exactly these pixels are set. -/
def shows (l : List (Nat × Nat)) (s : State) : Bool := s.fb == (pixels State.reset l).fb

/-! ### Well-formedness: a word of a table row is no unrecognized word -/

theorem test_wf_refuses_recognized_words :
    (Instr.unrecognized 0x00E0).wf = false ∧ (Instr.unrecognized 0x01EE).wf = false ∧
    (Instr.unrecognized 0x00C3).wf = false ∧ (Instr.unrecognized 0x1234).wf = false ∧
    (Instr.unrecognized 0x8014).wf = false ∧ (Instr.unrecognized 0x812E).wf = false ∧
    (Instr.unrecognized 0xE09E).wf = false ∧ (Instr.unrecognized 0xF065).wf = false := by decide

theorem test_wf_accepts_unrecognized_words :
    (Instr.unrecognized 0x0000).wf = true ∧ (Instr.unrecognized 0x00FD).wf = true ∧
    (Instr.unrecognized 0x8128).wf = true ∧ (Instr.unrecognized 0xE000).wf = true ∧
    (Instr.unrecognized 0xF075).wf = true ∧ (Instr.drw 15 15 15).wf = true := by decide

/-! ### Decoding: one word for every constructor, written from the patterns of R97 -/

theorem test_decode_family_0 :
    decodeTableWord 16 0x00E0 = some .cls ∧ decodeTableWord 16 0x00EE = some .ret ∧
    decodeTableWord 16 0x00C7 = some (.scd 7) ∧ decodeTableWord 16 0x00FB = some .scr ∧
    decodeTableWord 16 0x00FC = some .scl ∧ decodeTableWord 16 0x00FE = some .low ∧
    decodeTableWord 16 0x00FF = some .high := by decide

theorem test_decode_families_1_to_7_and_9 :
    decodeTableWord 16 0x1ABC = some (.jp 0xABC) ∧ decodeTableWord 16 0x2ABC = some (.call 0xABC) ∧
    decodeTableWord 16 0x3A7F = some (.seImm 10 0x7F) ∧ decodeTableWord 16 0x4A7F = some (.sneImm 10 0x7F) ∧
    decodeTableWord 16 0x5AB0 = some (.seReg 10 11) ∧ decodeTableWord 16 0x6A7F = some (.ldImm 10 0x7F) ∧
    decodeTableWord 16 0x7A7F = some (.addImm 10 0x7F) ∧ decodeTableWord 16 0x9AB0 = some (.sneReg 10 11) := by
  decide

theorem test_decode_family_8 :
    decodeTableWord 16 0x8AB0 = some (.ldReg 10 11) ∧ decodeTableWord 16 0x8AB1 = some (.orReg 10 11) ∧
    decodeTableWord 16 0x8AB2 = some (.andReg 10 11) ∧ decodeTableWord 16 0x8AB3 = some (.xorReg 10 11) ∧
    decodeTableWord 16 0x8AB4 = some (.addReg 10 11) ∧ decodeTableWord 16 0x8AB5 = some (.sub 10 11) ∧
    decodeTableWord 16 0x8AB6 = some (.shr 10) ∧ decodeTableWord 16 0x8AB7 = some (.subn 10 11) ∧
    decodeTableWord 16 0x8ABE = some (.shl 10) := by decide

theorem test_decode_families_A_to_E :
    decodeTableWord 16 0xA123 = some (.ldI 0x123) ∧ decodeTableWord 16 0xB123 = some (.jpV0 0x123) ∧
    decodeTableWord 16 0xCA7F = some (.rnd 10 0x7F) ∧ decodeTableWord 16 0xDAB3 = some (.drw 10 11 3) ∧
    decodeTableWord 16 0xEA9E = some (.skp 10) ∧ decodeTableWord 16 0xEAA1 = some (.sknp 10) := by decide

theorem test_decode_family_F :
    decodeTableWord 16 0xFA07 = some (.ldVxDt 10) ∧ decodeTableWord 16 0xFA0A = some (.ldVxK 10) ∧
    decodeTableWord 16 0xFA15 = some (.ldDtVx 10) ∧ decodeTableWord 16 0xFA18 = some (.ldStVx 10) ∧
    decodeTableWord 16 0xFA1E = some (.addI 10) ∧ decodeTableWord 16 0xFA29 = some (.ldF 10) ∧
    decodeTableWord 16 0xFA30 = some (.ldHf 10) ∧ decodeTableWord 16 0xFA33 = some (.ldB 10) ∧
    decodeTableWord 16 0xFA55 = some (.stRegs 10) ∧ decodeTableWord 16 0xFA65 = some (.ldRegs 10) := by decide

/-- TU1 to TU6 and TA19: words of R98's list. -/
theorem test_decode_unrecognized :
    decodeTableWord 16 0x00FD = some (.unrecognized 0x00FD) ∧
    decodeTableWord 16 0x0123 = some (.unrecognized 0x0123) ∧
    decodeTableWord 16 0xE000 = some (.unrecognized 0xE000) ∧
    decodeTableWord 16 0xF0FF = some (.unrecognized 0xF0FF) ∧
    decodeTableWord 16 0x8128 = some (.unrecognized 0x8128) := by decide

/-- A single byte is no instruction. -/
theorem test_decode_truncated : decode [0x12] = .error .truncated := rfl

/-! ### Control transfer -/

/-- TC1 -/
theorem test_ret : after { State.reset with stack := State.reset.stack.set 0 0x300, sp := 1 } 0x00EE
    (fun t => (t.pc, t.sp)) = some (0x302, 0) := by decide

/-- TC2 -/
theorem test_ret_empty : after State.reset 0x00EE (fun t => (t.pc, t.sp, t.unknownCount)) = some (0x202, 0, 0) := by
  decide

/-- TC5 -/
theorem test_jp : after State.reset 0x1FFF (fun t => t.pc) = some 0xFFF := by decide

/-- TC3 -/
theorem test_call : after State.reset 0x2ABC (fun t => (t.pc, t.sp, t.stack[0])) = some (0xABC, 1, 0x200) := by
  decide

/-- TC4 -/
theorem test_call_full : after { State.reset with sp := 16 } 0x2ABC
    (fun t => (t.pc, t.sp, t.stack == State.reset.stack)) = some (0x202, 16, true) := by decide

/-- TC6, TC7 -/
theorem test_se_imm : after (regs [(10, 0x7F)]) 0x3A7F (fun t => t.pc) = some 0x204 ∧
    after (regs [(10, 0x7E)]) 0x3A7F (fun t => t.pc) = some 0x202 := by decide

/-- TC8, and R164's example -/
theorem test_sne_imm : after (regs [(10, 0x7E)]) 0x4A7F (fun t => t.pc) = some 0x204 ∧
    after (regs [(3, 0x42)]) 0x4342 (fun t => t.pc) = some 0x202 := by decide

/-- TC10: bits 3-0 are ignored. -/
theorem test_se_reg : after (regs [(10, 3), (11, 3)]) 0x5AB7 (fun t => (t.pc, t.unknownCount)) = some (0x204, 0) := by
  decide

/-- TC11, and R166's example -/
theorem test_sne_reg : after (regs [(10, 3), (11, 3)]) 0x9AB0 (fun t => t.pc) = some 0x202 ∧
    after (regs [(1, 7), (2, 8)]) 0x9120 (fun t => t.pc) = some 0x204 := by decide

/-- TC12 -/
theorem test_jp_v0 : after (regs [(0, 0xFF)]) 0xBFFF (fun t => t.pc) = some 0x0FE := by decide

/-- TC13: a skip past the top of memory. -/
theorem test_skip_wraps : after { State.reset with pc := 0xFFE } 0x3000 (fun t => t.pc) = some 0x002 := by
  decide

/-! ### Register arithmetic -/

/-- TA1 -/
theorem test_ld_imm : after State.reset 0x6005 (fun t => (t.reg 0, t.pc)) = some (0x05, 0x202) := by decide

/-- TA2 -/
theorem test_add_imm : after (regs [(2, 0xFF), (15, 9)]) 0x7202 (fun t => (t.reg 2, t.reg 15)) = some (0x01, 9) := by
  decide

/-- TA3 -/
theorem test_ld_reg : after (regs [(5, 0x33)]) 0x8450 (fun t => (t.reg 4, t.reg 5)) = some (0x33, 0x33) := by
  decide

/-- TA4 -/
theorem test_or : after (regs [(1, 0x0F), (2, 0xF0), (15, 7)]) 0x8121 (fun t => (t.reg 1, t.reg 15)) =
    some (0xFF, 7) := by decide

/-- TA5 -/
theorem test_and : after (regs [(1, 0x3C), (2, 0x0F)]) 0x8122 (fun t => t.reg 1) = some 0x0C := by decide

/-- TA6 -/
theorem test_xor : after (regs [(1, 0x3C), (2, 0x0F)]) 0x8123 (fun t => t.reg 1) = some 0x33 := by decide

/-- TA8, TA9: the flag wins over the result, and an operand `VF` is its prior value. -/
theorem test_add_reg : after (regs [(15, 0xFF), (1, 0x01)]) 0x8F14 (fun t => t.reg 15) = some 1 ∧
    after (regs [(0, 0x10), (15, 0xF0)]) 0x80F4 (fun t => (t.reg 0, t.reg 15)) = some (0, 1) := by decide

/-- TA10, TA11 -/
theorem test_sub : after (regs [(1, 3), (2, 5)]) 0x8125 (fun t => (t.reg 1, t.reg 15)) = some (0xFE, 0) ∧
    after (regs [(1, 5), (2, 5)]) 0x8125 (fun t => (t.reg 1, t.reg 15)) = some (0x00, 1) := by decide

/-- TA13, TA14: `Vy` is not read. -/
theorem test_shr : after (regs [(3, 0x05)]) 0x8306 (fun t => (t.reg 3, t.reg 15)) = some (0x02, 1) ∧
    after (regs [(3, 0x04), (4, 0xFF)]) 0x8346 (fun t => (t.reg 3, t.reg 15)) = some (0x02, 0) := by decide

/-- TA15, TA16 -/
theorem test_subn : after (regs [(1, 3), (2, 5)]) 0x8127 (fun t => (t.reg 1, t.reg 15)) = some (0x02, 1) ∧
    after (regs [(1, 5), (2, 3)]) 0x8127 (fun t => (t.reg 1, t.reg 15)) = some (0xFE, 0) := by decide

/-- TA17, TA18 -/
theorem test_shl : after (regs [(3, 0x81)]) 0x830E (fun t => (t.reg 3, t.reg 15)) = some (0x02, 1) ∧
    after (regs [(15, 0x81)]) 0x8FFE (fun t => t.reg 15) = some 1 := by decide

/-- TA21: a zero mask gives 0 for any draw, and the draw is used up. -/
theorem test_rnd : after State.reset 0xC300 (fun t => (t.draws, t.pc)) = some (1, 0x202) ∧
    ∀ r : Byte, r &&& 0 = 0 := by
  refine ⟨by decide, fun r => by simp⟩

/-! ### Address register and memory -/

/-- TM1 -/
theorem test_ld_i : after (regs []) 0xA300 (fun t => t.i) = some 0x0300 := by decide

/-- TM2, TM3 -/
theorem test_add_i : (addIWith false 2 ((regs [(2, 3), (15, 9)]).setI 0x0FFE)).reg 15 = 9 ∧
    (addIWith true 2 ((regs [(2, 3), (15, 9)]).setI 0x0FFE)).reg 15 = 1 ∧
    (addIWith true 2 ((regs [(2, 3), (15, 9)]).setI 0x0FFE)).i = 0x1001 := by decide

/-- TM4, TM6: exactly 0xFFF is no overflow; `VF` as operand is its prior value. -/
theorem test_add_i_edge : (addIWith true 2 ((regs [(2, 3), (15, 9)]).setI 0x0FFC)).reg 15 = 0 ∧
    (addIWith true 15 ((regs [(15, 3)]).setI 0x0FFE)).reg 15 = 1 ∧
    (addIWith true 15 ((regs [(15, 3)]).setI 0x0FFE)).i = 0x1001 ∧
    (addIWith false 2 ((regs [(2, 3)]).setI 0xFFFF)).i = 0x0002 := by decide

/-- TM7, TM8 (`SMALL_FONT_BASE` = 0): no mask on `Vx`. -/
theorem test_ld_f : glyphAddr 0x000 5 5 = 0x0019 ∧ glyphAddr 0x000 5 0xFF = 0x04FB ∧
    exec (.ldF 0) (regs [(0, 5)]) = .next ((regs [(0, 5)]).setI (glyphAddr smallFontBase 5 5)).advance :=
  ⟨by decide, by decide, rfl⟩

/-- TM9 (`BIG_FONT_BASE` = 0x050) -/
theorem test_ld_hf : glyphAddr 0x050 10 3 = 0x006E ∧
    exec (.ldHf 0) (regs [(0, 3)]) = .next ((regs [(0, 3)]).setI (glyphAddr bigFontBase 10 3)).advance :=
  ⟨by decide, rfl⟩

/-- TM10 -/
theorem test_ld_b : after ((regs [(4, 0x7B)]).setI 0x300) 0xF433
    (fun t => (t.memRead 0x300, t.memRead 0x301, t.memRead 0x302, t.i)) = some (1, 2, 3, 0x300) := by decide

/-- TM12: the digits wrap past 0xFFF and overwrite the reserved region. -/
theorem test_ld_b_wraps : ∀ t, exec (.ldB 4) ((regs [(4, 0xFF)]).setI 0xFFF) = .next t →
    t.memRead 0xFFF = 2 ∧ t.memRead 0x000 = 5 ∧ t.memRead 0x001 = 5 := by
  intro t h
  cases h
  refine ⟨?_, ?_, ?_⟩
  · exact Memory.read_writeBytes_inside [2, 5, 5] [] 0xFFF 0 (by decide) (by decide)
  · exact Memory.read_writeBytes_inside [2, 5, 5] [] 0xFFF 1 (by decide) (by decide)
  · exact Memory.read_writeBytes_inside [2, 5, 5] [] 0xFFF 2 (by decide) (by decide)

/-- R235's example -/
theorem test_st_regs : after ((regs [(0, 1), (1, 2), (2, 9)]).setI 0x300) 0xF155
    (fun t => (t.memRead 0x300, t.memRead 0x301, t.memRead 0x302, t.i)) = some (1, 2, 0, 0x302) := by decide

/-- R61: an `I` above 0xFFF is taken modulo 4096, and keeps its own value. -/
theorem test_st_regs_wraps : after ((regs [(0, 7)]).setI 0xF300) 0xF055 (fun t => (t.memRead 0x300, t.i)) =
    some (7, 0xF301) := by decide

/-- TM15 and R236's example -/
theorem test_ld_regs : after (atI (regs [(3, 9)]) [1, 2, 3, 4]) 0xF265
    (fun t => (t.reg 0, t.reg 1, t.reg 2, t.reg 3, t.i)) = some (1, 2, 3, 9, 0x303) := by decide

/-! ### Display -/

/-- TD15, TD16: only the active region is cleared, and bits 11-8 are ignored. -/
theorem test_cls : after (pixels State.reset [(0, 0), (40, 100)]) 0x01E0 (shows [(40, 100)]) = some true := by
  decide

/-- TD17, TD18 -/
theorem test_scd : after (pixels { State.reset with mode := .extended } [(0, 0), (63, 0)]) 0x00C3 (shows [(3, 0)]) =
    some true ∧ after (pixels State.reset [(0, 0)]) 0x00C3 (shows [(0, 0)]) = some true := by decide

/-- TD19 -/
theorem test_scr : after (pixels { State.reset with mode := .extended } [(5, 0), (5, 126)]) 0x00FB
    (shows [(5, 4)]) = some true := by decide

/-- TD20 -/
theorem test_scl : after (pixels { State.reset with mode := .extended } [(5, 2), (5, 4)]) 0x00FC
    (shows [(5, 0)]) = some true := by decide

/-- TD21 -/
theorem test_low : after (pixels { State.reset with mode := .extended } [(5, 100)]) 0x00FE
    (fun t => (t.mode, t.getFramebuffer.length, shows [(5, 100)] t)) = some (.standard, 2048, true) := by
  decide +kernel

/-- TD22 -/
theorem test_high : after State.reset 0x00FF (fun t => (t.mode, t.getFramebuffer.length)) =
    some (.extended, 8192) := by decide +kernel

/-- TD3, TD4: the right edge under the two policies. -/
theorem test_drw_edge :
    shows [(0, 63), (0, 0)] (drwWith .wrap .empty 1 2 1 (atI (regs [(1, 63)]) [0xC0])) = true ∧
    shows [(0, 63)] (drwWith .clip .empty 1 2 1 (atI (regs [(1, 63)]) [0xC0])) = true ∧
    shows [(2, 5)] (drwWith .clip .empty 1 2 1 (atI (regs [(1, 69), (2, 34)]) [0x80])) = true := by decide

/-- TD10, TD11, TD12, TD13: the shapes of `n = 0`. -/
theorem test_drw_shape :
    shows [(0, 0), (0, 15)]
      (drwWith .wrap .empty 1 2 0 (atI { State.reset with mode := .extended } [0x80, 0x01])) = true ∧
    shows [] (drwWith .wrap .empty 1 2 0 (atI State.reset [0x80, 0x01])) = true ∧
    shows [(0, 0), (1, 7)] (drwWith .wrap .rows16 1 2 0 (atI State.reset [0x80, 0x01])) = true ∧
    shows [(0, 0), (0, 15)] (drwWith .wrap .big16x16 1 2 0 (atI State.reset [0x80, 0x01])) = true := by
  decide

/-! ### Key input and timers -/

/-- TK1, TK3 -/
theorem test_skp : after { regs [(0, 7)] with keys := State.reset.keys.set 7 true } 0xE09E (fun t => t.pc) =
    some 0x204 ∧ after (regs [(0, 0x17)]) 0xE09E (fun t => t.pc) = some 0x202 := by decide

/-- TK2, TK4 -/
theorem test_sknp : after (regs [(0, 7)]) 0xE0A1 (fun t => t.pc) = some 0x204 ∧
    after { regs [(0, 0x17)] with keys := Vector.replicate 16 true } 0xE0A1 (fun t => t.pc) = some 0x204 := by
  decide

/-- TK7 -/
theorem test_ld_vx_dt : after { State.reset with dt := 0x3C } 0xF307 (fun t => (t.reg 3, t.dt)) =
    some (0x3C, 0x3C) := by decide

/-- TK5, TK6 -/
theorem test_ld_vx_k : after { State.reset with latch := ⟨true, 11⟩ } 0xF30A
    (fun t => (t.reg 3, t.latch.pending, t.pc)) = some (0x0B, false, 0x202) ∧
    after State.reset 0xF30A (fun t => (t.reg 3, t.pc)) = some (0, 0x200) := by decide

/-- R304's example, the step's end included (R366): 0x3C is set and ticks to 0x3B. -/
theorem test_ld_dt_vx : after (regs [(2, 0x3C)]) 0xF215 (fun t => t.dt) = some 0x3C ∧
    after { regs [(2, 0x3C)] with cyclesLeft := 1 } 0xF215 (fun t => (t.dt, t.st)) = some (0x3B, 0) := by
  decide

/-- TK9 -/
theorem test_ld_st_vx : after (regs [(2, 5)]) 0xF218 (fun t => (t.st, t.dt)) = some (5, 0) := by decide

/-- TU1 -/
theorem test_unrecognized : after State.reset 0x00FD (fun t => (t.unknownCount, t.pc, t.v == State.reset.v)) =
    some (1, 0x202, true) := by decide

/-! ### The host -/

/-- TK8: one `step()` of two cycles, started by the host, run by two machine steps: the second ends it, the timers
tick, and the host presses a key. -/
theorem test_host_step :
    (match repeatTimes step 2 { (regs [(2, 5)]).withFetchWord 16 0xF215 with
      cyclesLeft := 2, hostOps := [.setKey 7 true, .getTimers] } with
      | .next t => some (t.dt, t.cyclesLeft, t.latch, t.hostOps)
      | .fault _ => none
      | .refused _ => none) = some (4, 0, ⟨true, 7⟩, []) := by decide

/-- TH5, TH6 -/
theorem test_set_key : ((State.reset.setKey 3 true).setKey 3 false).latch = ⟨true, 3⟩ ∧
    ((State.reset.setKey 3 true).setKey 3 false).keys[3] = false ∧
    ((State.reset.setKey 3 true).setKey 9 true).latch = ⟨true, 9⟩ ∧ State.reset.setKey 16 true = State.reset := by
  decide

/-- TH1 -/
theorem test_load_program : ((regs [(1, 1)]).loadProgram (some [0xAA, 0xBB])).memRead 0x200 = 0xAA ∧
    ((regs [(1, 1)]).loadProgram (some [0xAA, 0xBB])).memRead 0x201 = 0xBB ∧
    ((regs [(1, 1)]).loadProgram (some [0xAA, 0xBB])).reg 1 = 1 := by decide

/-! ### The statements' hypotheses can be met -/

theorem witness_DecodeOfEncodeIsTheInstruction :
    (Instr.drw 15 0 15).wf = true ∧ (Instr.unrecognized 0xF0FF).wf = true := by decide

theorem witness_OpcodeMapSelectsTheInstruction :
    ∃ row ∈ opcodeMap, (0xD125 : Word) &&& row.mask = row.pattern :=
  ⟨_, List.mem_of_getElem? (show opcodeMap[18]? = some _ from rfl), by decide⟩

theorem reset_fetches_unrecognized :
    decode [State.reset.memRead State.reset.pc.toNat, State.reset.memRead (State.reset.pc.toNat + 1)] =
      .ok (.unrecognized 0, []) := by decide

/-- Each clause: outside a `step()`, with one cycle left, with more. -/
theorem witness_StepRunsTheDecodedInstruction : ∀ n : Nat, ∃ s t : State,
    decode [s.memRead s.pc.toNat, s.memRead (s.pc.toNat + 1)] = .ok (.unrecognized 0, []) ∧
      exec (.unrecognized 0) s = .next t ∧ t.cyclesLeft = n :=
  fun n => ⟨{ State.reset with cyclesLeft := n }, _, reset_fetches_unrecognized, rfl, rfl⟩

theorem witness_UnrecognizedWordIsCountedAndSkipped :
    unrecognizedWord 0xE000 = true ∧ unrecognizedWord State.reset.fetchWord = true := by decide

theorem witness_StackOverflowAndUnderflowAreAbsorbed :
    ({ State.reset with sp := 16 } : State).sp.val = 16 ∧ State.reset.sp.val = 0 := ⟨rfl, rfl⟩

theorem witness_CallThenReturnComesBack :
    State.reset.sp.val < 16 ∧ ({ State.reset with sp := 15 } : State).sp.val < 16 := by decide

theorem witness_DeadStackEntriesAreNotObservable :
    SameButDeadStack { State.reset with sp := 1 } { State.reset with sp := 1, stack := State.reset.stack.set 1 0x777 } := by
  refine ⟨rfl, fun k hk => ?_⟩
  have : k = 0 := by simpa using hk
  subst this
  rfl

theorem witness_PcStaysEvenWithEvenTargets : State.EvenPc State.reset ∧
    (∀ nnn, Instr.jp 0x300 = .jp nnn ∨ Instr.jp 0x300 = .call nnn → nnn.toNat % 2 = 0) ∧
    (∀ nnn, Instr.jpV0 0x300 = .jpV0 nnn → ((State.reset.reg 0).toNat + nnn.toNat) % 2 = 0) := by
  refine ⟨⟨rfl, fun k hk => absurd hk (Nat.not_lt_zero k)⟩, fun nnn h => ?_, fun nnn h => ?_⟩
  · rcases h with h | h
    · cases h
      rfl
    · cases h
  · cases h
    rfl

theorem witness_CanonicalMemoryIsUnique : Memory.wf [(0x200, 0xAA), (0xFFF, 1)] = true ∧
    Memory.wf (Memory.write (Memory.write [] 0xFFF 1) 0x200 0xAA) = true ∧
    Memory.write (Memory.write [] 0xFFF 1) 0x200 0xAA = [(0x200, 0xAA), (0xFFF, 1)] := by decide

/-- The canonical form refuses an unsorted list, a repeated address, an address outside and an idle entry. -/
theorem test_memory_wf : Memory.wf [(0x300, 1), (0x200, 1)] = false ∧ Memory.wf [(0x200, 1), (0x200, 2)] = false ∧
    Memory.wf [(0x1000, 1)] = false ∧ Memory.wf [(0x200, 0)] = false := by decide

/-- R74, each form by R235 and R234: a store over both bytes of the successor, over its first byte alone, over its
second byte alone, and the first digit over its second byte. -/
theorem test_stored_bytes_are_fetched_next :
    after ((regs [(0, 0x12), (1, 0x34)]).setI 0x202) 0xF155 State.fetchWord = some 0x1234 ∧
    after ((regs [(0, 0x12)]).setI 0x202) 0xF055 State.fetchWord = some 0x1200 ∧
    after ((regs [(0, 0x12), (1, 0x34)]).setI 0x203) 0xF155 State.fetchWord = some 0x0012 ∧
    after ((regs [(4, 0xFF)]).setI 0x203) 0xF433 State.fetchWord = some 0x0002 := by decide

/-- The state of the draw witnesses: one sprite pixel, at the top left corner. -/
def drawState : State := atI State.reset [0x80]

theorem drawState_drawn : Drawn .wrap .empty 1 2 1 drawState 0 0 ∧ Drawn .clip .rows16 1 2 1 drawState 0 0 := by
  refine ⟨⟨0, 0, ?_⟩, ⟨0, 0, ?_⟩⟩ <;> (unfold spriteBitAt placedAt; decide)

/-- A draw that collides, and one with no pixel to draw. -/
theorem witness_DrawTogglesTheSpriteAndReportsCollision :
    (∃ py px, Drawn .wrap .empty 1 2 1 (pixels drawState [(0, 0)]) py px ∧
      (pixels drawState [(0, 0)]).pixel py px = true) ∧
    ¬∃ py px, Drawn .wrap .empty 1 2 0 drawState py px ∧ drawState.pixel py px = true := by
  refine ⟨⟨0, 0, ⟨0, 0, ?_⟩, ?_⟩, ?_⟩
  · unfold spriteBitAt placedAt
    decide
  · decide
  · rintro ⟨_, _, ⟨r, _, hr, _⟩, _⟩
    exact Nat.not_lt_zero r hr

theorem witness_DrawingTwiceRestoresTheScreen : (1 : RegIdx) ≠ 15 ∧ (2 : RegIdx) ≠ 15 ∧
    (∃ py px, Drawn .wrap .empty 1 2 1 drawState py px ∧ drawState.pixel py px = false) ∧
    ¬∃ py px, Drawn .wrap .empty 1 2 0 drawState py px ∧ drawState.pixel py px = false := by
  refine ⟨by decide, by decide, ⟨0, 0, drawState_drawn.1, by decide⟩, ?_⟩
  rintro ⟨_, _, ⟨r, _, hr, _⟩, _⟩
  exact Nat.not_lt_zero r hr

/-- Log entry 6: a sprite with a visible 1 bit drawn twice over a pixel that was set. The second draw toggles it from
0 to 1, so by R267 it does not collide. -/
theorem test_second_draw_over_a_set_pixel :
    (drwWith .wrap .empty 1 2 1 (pixels drawState [(0, 0)])).reg 15 = 1 ∧
    (drwWith .wrap .empty 1 2 1 (drwWith .wrap .empty 1 2 1 (pixels drawState [(0, 0)]))).reg 15 = 0 := by
  decide

theorem witness_KeyWaitConsumesTheLatch :
    ({ State.reset with latch := ⟨true, 15⟩ } : State).latch.pending = true ∧ State.reset.latch.pending = false :=
  ⟨rfl, rfl⟩

theorem witness_KeyWaitBlocksTheStep : decodeWord (State.reset.withFetchWord 16 0xF00A).fetchWord = .ldVxK 0 ∧
    (State.reset.withFetchWord 16 0xF00A).latch.pending = false := by decide

/-- An instruction that reads the keys, one that reads the latch, one that reads neither. -/
theorem witness_HiddenStateDoesNotReachOtherInstructions : ∀ (keys : Vector Bool 16) (latch : KeyLatch),
    (∀ x : RegIdx, Instr.cls ≠ .skp x ∧ Instr.cls ≠ .sknp x ∨ keys = State.reset.keys) ∧
    (∀ x : RegIdx, Instr.cls ≠ .ldVxK x ∨ latch = State.reset.latch) ∧
    (∀ x : RegIdx, Instr.ldVxK 3 ≠ .skp x ∧ Instr.ldVxK 3 ≠ .sknp x ∨ keys = State.reset.keys) ∧
    ∀ x : RegIdx, Instr.skp 3 ≠ .ldVxK x ∨ latch = State.reset.latch := by
  intro keys latch
  refine ⟨fun x => .inl ⟨?_, ?_⟩, fun x => .inl ?_, fun x => .inl ⟨?_, ?_⟩, fun x => .inl ?_⟩ <;> exact nofun

/-- Each clause: a `step()` under way, and one the host makes. -/
theorem witness_MachineStepsMakeUpTheHostStep :
    ({ State.reset with cyclesLeft := 1, hostOps := [.step] } : State).cyclesLeft = 0 + 1 ∧
    State.reset.cyclesLeft = 0 ∧ State.reset.cyclesPerStep = 0 + 1 := ⟨rfl, rfl, rfl⟩

/-- Each clause: `CYCLES_PER_STEP` other than 0, and 0. -/
theorem witness_HostMakesItsOperationsInOrder : State.reset.cyclesLeft = 0 ∧
    HostOp.step ∉ [.setKey 7 true, .reset, .getTimers] ∧ State.reset.cyclesPerStep ≠ 0 ∧
    ({ State.reset with cyclesPerStep := 0 } : State).cyclesLeft = 0 ∧
    ({ State.reset with cyclesPerStep := 0 } : State).cyclesPerStep = 0 := by decide

/-- R143, R137: the key pressed before a `reset()` is gone, the one pressed after it is latched. -/
theorem test_host_turn_keeps_the_order :
    (hostTurn [.setKey 7 true, .reset, .setKey 3 true, .step, .reset] State.reset).latch = ⟨true, 3⟩ ∧
    (hostTurn [.setKey 7 true, .reset, .setKey 3 true, .step, .reset] State.reset).cyclesLeft = 1 ∧
    (hostTurn [.setKey 7 true, .reset, .setKey 3 true, .step, .reset] State.reset).hostOps = [.reset] := by decide

theorem witness_HostActsOnlyBetweenSteps :
    State.reset.cyclesLeft ≠ 1 ∧ ({ State.reset with cyclesLeft := 2 } : State).cyclesLeft ≠ 1 := by decide

theorem witness_LoadProgramCopiesOrFails : 3584 < (List.replicate 3585 (1 : Byte)).length ∧
    (List.replicate 3584 (1 : Byte)).length ≤ 3584 := by
  rw [List.length_replicate, List.length_replicate]
  decide

theorem witness_SetKeyWritesKeyAndLatch : 15 < 16 ∧ 15 ≤ 15 := by decide

/-- The last pixel of the active region of each mode. -/
theorem witness_ViewsReturnWithoutChange : State.reset.inActive 31 63 ∧ ¬State.reset.inActive 32 0 ∧
    ({ State.reset with mode := .extended } : State).inActive 63 127 := by
  refine ⟨⟨?_, ?_⟩, fun h => ?_, ⟨?_, ?_⟩⟩
  · decide
  · decide
  · exact absurd h.1 (by decide)
  · decide
  · decide

theorem witness_StepKeepsTheInvariant :
    ({ State.reset with mem := [(0x200, 1)], cyclesPerStep := 4, cyclesLeft := 1 } : State).Inv := by
  exact ⟨by decide, by decide⟩

/-- The flag-setting instructions and the destinations are not all shut out. -/
theorem witness_OnlyDestinationsAndFlagsAreWritten :
    setsFlag (.drw 1 2 3) = true ∧ writesReg (.ldRegs 2) 2 ∧ ¬writesReg (.ldRegs 2) 3 := by
  refine ⟨rfl, ?_, ?_⟩
  · unfold writesReg
    decide
  · unfold writesReg
    decide

end Sys2Proof.Tests
end

section
/-! PROOFS. Instruction fetch (spec/20_memory.md R61, R63). -/

namespace Sys2Proof

theorem wordOfBytes_toNat (hi lo : Byte) : (wordOfBytes hi lo).toNat = 256 * hi.toNat + lo.toNat := by
  calc (wordOfBytes hi lo).toNat
    _ = hi.toNat <<< 8 ||| lo.toNat := BitVec.toNat_append hi lo
    _ = hi.toNat <<< 8 + lo.toNat := (Nat.shiftLeft_add_eq_or_of_lt lo.isLt _).symm
    _ = 256 * hi.toNat + lo.toNat := by rw [Nat.shiftLeft_eq, Nat.mul_comm]

namespace Machine

theorem State.memRead_wrap (s : State) (a : Nat) : s.memRead (a % 4096) = s.memRead a :=
  s.mem.read_wrap a

theorem State.fetchWord_toNat (s : State) : s.fetchWord.toNat =
    256 * (s.memRead s.pc.toNat).toNat + (s.memRead ((s.pc.toNat + 1) % 4096)).toNat := by
  rw [State.memRead_wrap]
  exact wordOfBytes_toNat _ _

end Machine
end Sys2Proof

/-- Settles O9: the word of the two bytes is `State.fetchWord_toNat`, and `cycle` is `exec` of it as R130 writes it. -/
theorem fetchIsBigEndianAndWraps : Obligations.FetchIsBigEndianAndWraps := by
  intro s
  exact ⟨s.fetchWord_toNat, rfl⟩

end

section
/-! PROOFS. Every word selects a row of the opcode map or is unrecognized, and every instruction completes
(spec/30_encoding.md R97 to R99). -/

namespace Sys2Proof

/-! ### Selecting a row, nibble by nibble -/

/-- For a literal mask and pattern the right side reduces to the fields that a row of R97 fixes. -/
theorem and_eq_iff_nibbles (w m p : Word) : w &&& m = p ↔
    opF w &&& m.extractLsb' 12 4 = p.extractLsb' 12 4 ∧
    w.extractLsb' 8 4 &&& m.extractLsb' 8 4 = p.extractLsb' 8 4 ∧
    w.extractLsb' 4 4 &&& m.extractLsb' 4 4 = p.extractLsb' 4 4 ∧
    opN w &&& m.extractLsb' 0 4 = p.extractLsb' 0 4 := by
  obtain ⟨f, x, y, n, rfl⟩ := nibbles_cases w
  obtain ⟨f', x', y', n', rfl⟩ := nibbles_cases m
  obtain ⟨f'', x'', y'', n'', rfl⟩ := nibbles_cases p
  rw [nibbles_and, nibbles_inj]
  change _ ↔ opF _ &&& opF _ = opF _ ∧ _ ∧ _ ∧ opN _ &&& opN _ = opN _
  simp only [opF_nibbles, low3_nibbles, low2_nibbles, opN_nibbles]

/-- `BitVec.and_allOnes` with the literal to which `simp` reduces a mask's nibble. -/
theorem nibble_and_15 (b : BitVec 4) : b &&& 15#4 = b := BitVec.and_allOnes

theorem opNN_eq_append (w : Word) : opNN w = w.extractLsb' 4 4 ++ opN w := by
  obtain ⟨f, x, y, n, rfl⟩ := nibbles_cases w
  rw [opNN_nibbles, low2_nibbles, opN_nibbles]

theorem opNN_eq_iff_nibbles (w : Word) (b : Byte) :
    opNN w = b ↔ w.extractLsb' 4 4 = b.extractLsb' 4 4 ∧ opN w = b.extractLsb' 0 4 := by
  constructor
  · rintro rfl
    exact ⟨(BitVec.extractLsb'_extractLsb'_of_le (by decide)).symm,
      (BitVec.extractLsb'_extractLsb'_of_le (by decide)).symm⟩
  · rintro ⟨hy, hn⟩
    obtain ⟨y, n, rfl⟩ := byte_nibbles b
    rw [opNN_eq_append, hy, hn, BitVec.extractLsb'_append_eq_left, BitVec.extractLsb'_append_eq_right]

/-! ### The row a word selects is the one the decoder reads -/

section
variable {w : Word}

theorem decodeWord_of_row0 : ∀ row ∈ opcodeRows0, w &&& row.mask = row.pattern → decodeWord w = row.build w := by
  simp +contextual [opcodeRows0, and_eq_iff_nibbles, nibble_and_15, opNN_eq_append, decodeWord, decodeFamily0]

theorem decodeWord_of_rowPlain :
    ∀ row ∈ opcodeRowsPlain, w &&& row.mask = row.pattern → decodeWord w = row.build w := by
  simp +contextual [opcodeRowsPlain, and_eq_iff_nibbles, nibble_and_15, decodeWord]

theorem decodeWord_of_row8 : ∀ row ∈ opcodeRows8, w &&& row.mask = row.pattern → decodeWord w = row.build w := by
  simp +contextual [opcodeRows8, and_eq_iff_nibbles, nibble_and_15, decodeWord, decodeFamily8]

theorem decodeWord_of_rowEF :
    ∀ row ∈ opcodeRowsEF, w &&& row.mask = row.pattern → decodeWord w = row.build w := by
  simp +contextual [opcodeRowsEF, and_eq_iff_nibbles, nibble_and_15, opNN_eq_append, decodeWord, decodeFamilyE,
    decodeFamilyF]

theorem decodeWord_of_row : ∀ row ∈ opcodeMap, w &&& row.mask = row.pattern → decodeWord w = row.build w := by
  simp only [opcodeMap, List.forall_mem_append]
  exact ⟨⟨⟨decodeWord_of_row0, decodeWord_of_rowPlain⟩, decodeWord_of_row8⟩, decodeWord_of_rowEF⟩

/-! ### The words that select no row, by the sub-opcodes of their family (R98) -/

/-- In the table's order: `SCD n`, which examines a nibble alone, stands third. -/
theorem no_row0_iff : (∀ row ∈ opcodeRows0, w &&& row.mask ≠ row.pattern) ↔
    (opF w = 0x0#4 → opNN w ∉ [0xE0#8, 0xEE#8] ∧ w.extractLsb' 4 4 ≠ 0xC#4 ∧
      opNN w ∉ [0xFB#8, 0xFC#8, 0xFE#8, 0xFF#8]) := by
  simp [opcodeRows0, and_eq_iff_nibbles, nibble_and_15, opNN_eq_iff_nibbles, imp_and, and_assoc]

theorem no_rowPlain_iff : (∀ row ∈ opcodeRowsPlain, w &&& row.mask ≠ row.pattern) ↔
    opF w ∉ [0x1#4, 0x2#4, 0x3#4, 0x4#4, 0x5#4, 0x6#4, 0x7#4, 0x9#4, 0xA#4, 0xB#4, 0xC#4, 0xD#4] := by
  simp [opcodeRowsPlain, and_eq_iff_nibbles, nibble_and_15]

theorem no_row8_iff : (∀ row ∈ opcodeRows8, w &&& row.mask ≠ row.pattern) ↔
    (opF w = 0x8#4 → opN w ∉ [0x0#4, 0x1#4, 0x2#4, 0x3#4, 0x4#4, 0x5#4, 0x6#4, 0x7#4, 0xE#4]) := by
  simp [opcodeRows8, and_eq_iff_nibbles, nibble_and_15, imp_and]

theorem no_rowEF_iff : (∀ row ∈ opcodeRowsEF, w &&& row.mask ≠ row.pattern) ↔
    (opF w = 0xE#4 → opNN w ∉ [0x9E#8, 0xA1#8]) ∧
    (opF w = 0xF#4 → opNN w ∉ [0x07#8, 0x0A#8, 0x15#8, 0x18#8, 0x1E#8, 0x29#8, 0x30#8, 0x33#8, 0x55#8, 0x65#8]) := by
  simp [opcodeRowsEF, and_eq_iff_nibbles, nibble_and_15, opNN_eq_iff_nibbles, imp_and, and_assoc]

/-- The families that the plain rows leave are the grouped ones (R93, R95). -/
theorem family_grouped : ∀ f : BitVec 4,
    f ∉ [0x1#4, 0x2#4, 0x3#4, 0x4#4, 0x5#4, 0x6#4, 0x7#4, 0x9#4, 0xA#4, 0xB#4, 0xC#4, 0xD#4] →
    f = 0x0#4 ∨ f = 0x8#4 ∨ f = 0xE#4 ∨ f = 0xF#4 := by decide

theorem decodeWord_of_no_row (h : ∀ row ∈ opcodeMap, w &&& row.mask ≠ row.pattern) :
    decodeWord w = .unrecognized w := by
  simp only [opcodeMap, List.forall_mem_append, no_row0_iff, no_rowPlain_iff, no_row8_iff, no_rowEF_iff] at h
  obtain ⟨⟨⟨h0, hplain⟩, h8⟩, hE, hF⟩ := h
  simp only [List.mem_cons, List.not_mem_nil, or_false, not_or] at h0 h8 hE hF
  rcases family_grouped _ hplain with hf | hf | hf | hf
  · simp [decodeWord, hf, decodeFamily0, h0 hf]
  · simp [decodeWord, hf, decodeFamily8, h8 hf]
  · simp [decodeWord, hf, decodeFamilyE, hE hf]
  · simp [decodeWord, hf, decodeFamilyF, hF hf]

end

namespace Machine

/-- Only `RET`, `CALL` and `LD Vx, K` branch on the state; each of their branches completes. -/
theorem exec_next (i : Instr) (s : State) : ∃ t, exec i s = .next t := by
  cases i
  case ret =>
    rcases Nat.eq_zero_or_pos s.sp.val with h | h
    · exact ⟨_, exec_ret_of_zero h⟩
    · exact ⟨_, exec_ret_of_pos h⟩
  case call nnn =>
    rcases Nat.eq_or_lt_of_le s.sp_le with h | h
    · exact ⟨_, exec_call_of_full h nnn⟩
    · exact ⟨_, exec_call_of_room h nnn⟩
  case ldVxK x =>
    cases h : s.latch.pending with
    | true => exact ⟨_, exec_ldVxK_of_pending h x⟩
    | false => exact ⟨_, exec_ldVxK_of_not_pending h x⟩
  all_goals exact ⟨_, rfl⟩

end Machine
end Sys2Proof

open Sys2Proof Sys2Proof.Machine

/-- Settles O6: a word that selects a row decodes to it (`decodeWord_of_row`), one that selects none is unrecognized
(`decodeWord_of_no_row`), and every instruction answers a next state (`exec_next`). -/
theorem everyWordExecutesToCompletion : Obligations.EveryWordExecutesToCompletion := by
  intro w
  refine ⟨?_, fun s => exec_next (decodeWord w) s⟩
  by_cases h : ∃ row ∈ opcodeMap, w &&& row.mask = row.pattern
  · obtain ⟨row, hmem, hsel⟩ := h
    exact .inl ⟨row, hmem, hsel, decodeWord_of_row row hmem hsel⟩
  · have hnone : ∀ row ∈ opcodeMap, w &&& row.mask ≠ row.pattern := fun row hmem hsel => h ⟨row, hmem, hsel⟩
    exact .inr ⟨hnone, decodeWord_of_no_row hnone⟩

end

section
/-! PROOFS. The next program counter of every instruction (spec/40_cycle_and_host.md R131). -/

open Sys2Proof.Claim

namespace Sys2Proof.Machine

/-! ### The computed program counters -/

theorem State.skipIf_pc_of_iff (s : State) {c : Bool} {p : Prop} [Decidable p] (h : c = true ↔ p) :
    (s.skipIf c).pc.toNat = (if p then s.pc.toNat + 4 else s.pc.toNat + 2) % 4096 := by
  rw [State.skipIf_eq, State.setPc_pc]
  by_cases hp : p
  · rw [if_pos (h.mpr hp), if_pos hp, pc_add_four]
  · rw [if_neg (mt h.mp hp), if_neg hp, pc_add_two]

/-- The same with the table's two columns in the order of the rows that skip when a condition fails. -/
theorem State.skipIf_pc_of_iff_not (s : State) {c : Bool} {p : Prop} [Decidable p] (h : c = true ↔ ¬p) :
    (s.skipIf c).pc.toNat = (if p then s.pc.toNat + 2 else s.pc.toNat + 4) % 4096 := by
  rw [s.skipIf_pc_of_iff h, ite_not]

theorem State.keyHeld_iff (s : State) (k : Byte) : s.keyHeld k = true ↔ s.keys[k.toNat]? = some true := by
  unfold State.keyHeld
  cases s.keys[k.toNat]? <;> simp

theorem State.toNat_offsetTarget (s : State) (nnn : Addr) :
    (s.offsetTarget nnn).toNat = ((s.reg 0).toNat + nnn.toNat) % 4096 := by
  have hreg := (s.reg 0).isLt
  have hnnn := nnn.isLt
  simp only [State.offsetTarget, BitVec.toNat_setWidth, BitVec.toNat_add]
  omega

/-! ### The rows that only advance -/

theorem answers_pcNext_of_add_two {i : Instr} {s t : State} (hexec : exec i s = .next t)
    (hpc : t.pc = s.pc + 2) (hrow : pcNext i s = s.pc.toNat + 2) :
    Answers i s fun t => t.pc.toNat = pcNext i s % 4096 :=
  ⟨t, hexec, by simp only [hpc, hrow, pc_add_two]⟩

/-! ### The rows that branch on the state -/

theorem answers_pcNext_ret (s : State) : Answers .ret s fun t => t.pc.toNat = pcNext .ret s % 4096 := by
  rcases Nat.eq_zero_or_pos s.sp.val with h | h
  · exact answers_pcNext_of_add_two (exec_ret_of_zero h) rfl (if_neg h.not_gt)
  · refine ⟨_, exec_ret_of_pos h, ?_⟩
    simp only [pcNext, if_pos h]
    exact pc_add_two _

theorem answers_pcNext_call (nnn : Addr) (s : State) :
    Answers (.call nnn) s fun t => t.pc.toNat = pcNext (.call nnn) s % 4096 := by
  rcases Nat.eq_or_lt_of_le s.sp_le with h | h
  · exact answers_pcNext_of_add_two (exec_call_of_full h nnn) rfl (if_neg h.not_lt)
  · refine ⟨_, exec_call_of_room h nnn, ?_⟩
    simp only [pcNext, if_pos h]
    exact (Nat.mod_eq_of_lt nnn.isLt).symm

theorem answers_pcNext_ldVxK (x : RegIdx) (s : State) :
    Answers (.ldVxK x) s fun t => t.pc.toNat = pcNext (.ldVxK x) s % 4096 := by
  cases h : s.latch.pending with
  | true => exact answers_pcNext_of_add_two (exec_ldVxK_of_pending h x) rfl (if_pos h)
  | false =>
    refine ⟨_, exec_ldVxK_of_not_pending h x, ?_⟩
    simp only [pcNext, h]
    exact (Nat.mod_eq_of_lt s.pc.isLt).symm

end Sys2Proof.Machine

open Sys2Proof Sys2Proof.Machine

/-- Settles O10, row by row of R131's table: the jumps, the skips by their condition, and
`answers_pcNext_of_add_two` for every instruction the table does not name. -/
theorem nextPcFollowsTheTable : Obligations.NextPcFollowsTheTable := by
  intro i s
  cases i
  case ret => exact answers_pcNext_ret s
  case call nnn => exact answers_pcNext_call nnn s
  case ldVxK x => exact answers_pcNext_ldVxK x s
  case jp nnn => exact ⟨_, rfl, (Nat.mod_eq_of_lt nnn.isLt).symm⟩
  case jpV0 nnn => exact ⟨_, rfl, s.toNat_offsetTarget nnn⟩
  case seImm x nn => exact ⟨_, rfl, s.skipIf_pc_of_iff decide_eq_true_iff⟩
  case seReg x y => exact ⟨_, rfl, s.skipIf_pc_of_iff decide_eq_true_iff⟩
  case sneImm x nn => exact ⟨_, rfl, s.skipIf_pc_of_iff_not decide_eq_true_iff⟩
  case sneReg x y => exact ⟨_, rfl, s.skipIf_pc_of_iff_not decide_eq_true_iff⟩
  case skp x => exact ⟨_, rfl, s.skipIf_pc_of_iff (s.keyHeld_iff _)⟩
  case sknp x =>
    have hfree : (!s.keyHeld (s.reg x)) = true ↔ ¬s.keys[(s.reg x).toNat]? = some true := by
      rw [Bool.not_eq_true', ← Bool.not_eq_true, s.keyHeld_iff]
    exact ⟨_, rfl, s.skipIf_pc_of_iff_not hfree⟩
  all_goals exact answers_pcNext_of_add_two rfl (by simp) rfl

end

section
/-! PROOFS. The host's `step()` (spec/40_cycle_and_host.md R133, R134). -/

namespace Sys2Proof.Machine

theorem repeatTimes_next {f : State → Result} (h : ∀ s, ∃ t, f s = .next t) (n : Nat) (s : State) :
    ∃ t, repeatTimes f n s = .next t := by
  induction n generalizing s with
  | zero => exact ⟨s, rfl⟩
  | succ n ih =>
    obtain ⟨t, ht⟩ := h s
    simp only [repeatTimes, ht]
    exact ih t

theorem execute_next (n : Nat) (s : State) : ∃ t, execute n s = .next t :=
  repeatTimes_next (fun s => exec_next (decodeWord s.fetchWord) s) n s

theorem hostStep_of_execute {s t : State} (h : execute s.cyclesPerStep s = .next t) :
    hostStep s = .next t.tickTimers := by
  simp only [hostStep, h]

theorem toNat_tick (b : Byte) : (tick b).toNat = b.toNat - 1 := by
  unfold tick
  split
  case isTrue h => simp [h]
  case isFalse h => bv_omega

end Sys2Proof.Machine

open Sys2Proof.Machine

/-- Settles O49: every run of cycles completes (`execute_next`), and `hostStep` ticks the timers of its last state. -/
theorem stepTicksTheTimersOnce : Obligations.StepTicksTheTimersOnce := by
  intro s
  obtain ⟨t, ht⟩ := execute_next s.cyclesPerStep s
  exact ⟨t, t.tickTimers, ht, hostStep_of_execute ht, toNat_tick t.dt, toNat_tick t.st, rfl⟩

end

section
/-! PROOFS. The jump and the register and immediate skips (spec/41_control_flow.md R161, R163 to R166). -/

open Sys2Proof.Claim

namespace Sys2Proof

theorem encodedBy_of_mem_opcodeMap {row : OpcodeRow} (h : row ∈ opcodeMap) :
    EncodedBy row.mask row.pattern row.build :=
  fun _ hsel => decodeWord_of_row row h hsel

theorem mem_opcodeMap_of_plain {row : OpcodeRow} (h : row ∈ opcodeRowsPlain) : row ∈ opcodeMap :=
  List.mem_append_left _ (List.mem_append_left _ (List.mem_append_right _ h))

/-- A row that the family alone selects, with its fields written out as the statements have them. -/
theorem encodedBy_of_plain {mask pattern : Word} {build : Word → Instr}
    (h : ⟨mask, pattern, build⟩ ∈ opcodeRowsPlain) : EncodedBy mask pattern build :=
  encodedBy_of_mem_opcodeMap (mem_opcodeMap_of_plain h)

namespace Machine

theorem onlyPc_setPc (s : State) (a : Addr) : OnlyPc s (s.setPc a) :=
  ⟨s.reg_setPc a, rfl, s.memRead_setPc a, ⟨rfl, rfl⟩, ⟨rfl, rfl⟩, ⟨rfl, s.pixel_setPc a⟩, ⟨rfl, rfl⟩, rfl,
    rfl, rfl, rfl, rfl⟩

section
variable {i : Instr} {s : State} {c : Bool} {p : Prop} [Decidable p]

theorem answers_skipIf (hexec : exec i s = .next (s.skipIf c)) (h : c = true ↔ p) :
    Answers i s fun t => PcPlus (if p then 4 else 2) s t ∧ OnlyPc s t := by
  refine ⟨s.skipIf c, hexec, ?_, onlyPc_setPc s _⟩
  rw [PcPlus, s.skipIf_pc_of_iff h, add_ite]

/-- The same with the two distances in the order of the instructions that skip when a condition fails. -/
theorem answers_skipIf_not (hexec : exec i s = .next (s.skipIf c)) (h : c = true ↔ ¬p) :
    Answers i s fun t => PcPlus (if p then 2 else 4) s t ∧ OnlyPc s t := by
  simpa only [ite_not] using answers_skipIf hexec h

end

end Machine
end Sys2Proof

open Sys2Proof Sys2Proof.Machine

/-- Settles O15: the encodings are rows of the opcode map (`encodedBy_of_plain`), every meaning here sets the `PC`
and nothing else (`onlyPc_setPc`), and the skips are `answers_skipIf` of their condition. -/
theorem jumpAndSkipsChangeOnlyThePc : Obligations.JumpAndSkipsChangeOnlyThePc := by
  refine ⟨encodedBy_of_plain ?_, encodedBy_of_plain ?_, encodedBy_of_plain ?_, encodedBy_of_plain ?_,
    encodedBy_of_plain ?_, fun s nnn x y nn => ⟨?jp, ?seImm, ?sneImm, ?seReg, ?sneReg⟩⟩
  case jp => exact ⟨s.setPc nnn, rfl, rfl, onlyPc_setPc s nnn⟩
  case seImm => exact answers_skipIf rfl decide_eq_true_iff
  case sneImm => exact answers_skipIf_not rfl decide_eq_true_iff
  case seReg => exact answers_skipIf rfl decide_eq_true_iff
  case sneReg => exact answers_skipIf_not rfl decide_eq_true_iff
  all_goals simp [opcodeRowsPlain]

end

section
/-! PROOFS. Register arithmetic, logic and shifts (spec/42_arithmetic.md R190 to R200). -/

open Sys2Proof.Claim

namespace Sys2Proof

theorem mem_opcodeMap_of_row8 {row : OpcodeRow} (h : row ∈ opcodeRows8) : row ∈ opcodeMap :=
  List.mem_append_left _ (List.mem_append_right _ h)

/-- A row of family 8, with its fields written out as the statements have them. -/
theorem encodedBy_of_row8 {mask pattern : Word} {build : Word → Instr}
    (h : ⟨mask, pattern, build⟩ ∈ opcodeRows8) : EncodedBy mask pattern build :=
  encodedBy_of_mem_opcodeMap (mem_opcodeMap_of_row8 h)

namespace Machine

/-! ### Byte arithmetic modulo 256 (R203) -/

theorem byte_toNat_sub (a b : Byte) : (a - b).toNat = (a.toNat + 256 - b.toNat) % 256 := by
  have hb := b.isLt
  rw [BitVec.toNat_sub, show 2 ^ 8 - b.toNat + a.toNat = a.toNat + 256 - b.toNat by omega]

theorem byte_toNat_shiftRight_one (a : Byte) : (a >>> 1).toNat = a.toNat / 2 := by
  rw [BitVec.toNat_ushiftRight, Nat.shiftRight_eq_div_pow, Nat.pow_one]

theorem byte_toNat_shiftLeft_one (a : Byte) : (a <<< 1).toNat = a.toNat * 2 % 256 := by
  rw [BitVec.toNat_shiftLeft, Nat.shiftLeft_eq, Nat.pow_one]

/-! ### Flags as numbers (R22) -/

theorem toNat_flagByte_decide (p : Prop) [Decidable p] : (flagByte (decide p)).toNat = bit p := by
  simp only [toNat_flagByte, decide_eq_true_iff, bit]

theorem toNat_flagByte_carryOut (a b : Byte) :
    (flagByte (carryOut a b)).toNat = bit (a.toNat + b.toNat > 255) :=
  toNat_flagByte_decide _

theorem toNat_flagByte_notBorrow (a b : Byte) :
    (flagByte (notBorrow a b)).toNat = bit (a.toNat ≥ b.toNat) :=
  toNat_flagByte_decide _

theorem toNat_flagByte_eq_toNat (b : Bool) : (flagByte b).toNat = b.toNat := by cases b <;> rfl

theorem toNat_flagByte_getLsbD (a : Byte) (k : Nat) : (flagByte (a.getLsbD k)).toNat = a.toNat / 2 ^ k % 2 :=
  (toNat_flagByte_eq_toNat _).trans (Nat.toNat_testBit a.toNat k)

theorem toNat_flagByte_shiftedOutRight (a : Byte) : (flagByte (shiftedOutRight a)).toNat = a.toNat % 2 := by
  rw [shiftedOutRight, toNat_flagByte_getLsbD, Nat.pow_zero, Nat.div_one]

/-- Bit 7 is the top bit of a byte, so nothing is left above it. -/
theorem toNat_flagByte_shiftedOutLeft (a : Byte) : (flagByte (shiftedOutLeft a)).toNat = a.toNat / 128 := by
  have ha := a.isLt
  rw [shiftedOutLeft, toNat_flagByte_getLsbD]
  omega

/-! ### The two shapes of a meaning: a result alone, and a result and a flag (R202) -/

theorem pcPlus_advance {s t : State} (h : t.pc = s.pc) : PcPlus 2 s t.advance := by
  rw [PcPlus, State.advance_eq, State.setPc_pc, h, pc_add_two]

theorem onlyRegsPc_setReg {s t : State} (h : OnlyRegsPc s t) (x : RegIdx) (r : Byte) :
    OnlyRegsPc s (t.setReg x r) := h

theorem onlyRegsPc_advance {s t : State} (h : OnlyRegsPc s t) : OnlyRegsPc s t.advance := h

theorem onlyRegsPc_refl (s : State) : OnlyRegsPc s s := (onlyPc_setPc s s.pc).2

theorem setsReg_setReg_advance (s : State) (x : RegIdx) (r : Byte) :
    SetsReg x r.toNat s (s.setReg x r).advance := by
  refine ⟨?_, fun k hk => ?_⟩
  · simp
  · simp [hk]

theorem setsRegAndFlag_setResultAndFlag_advance (s : State) (x : RegIdx) (r : Byte) (b : Bool) :
    SetsRegAndFlag x r.toNat (flagByte b).toNat s (s.setResultAndFlag x r b).advance := by
  refine ⟨fun hx => ?_, ?_, fun k hkx hkF => ?_⟩
  · simp [hx]
  · simp
  · simp [hkx, hkF]

section
variable {i : Instr} {s : State} {x y : RegIdx} {r : Byte}

theorem answers_setReg {value : Nat} (hexec : exec i s = .next (s.setReg x r).advance) (hr : r.toNat = value) :
    Answers i s fun t => SetsReg x value s t ∧ PcPlus 2 s t ∧ OnlyRegsPc s t := by
  subst hr
  exact ⟨_, hexec, setsReg_setReg_advance s x r, pcPlus_advance rfl,
    onlyRegsPc_advance (onlyRegsPc_setReg (onlyRegsPc_refl s) x r)⟩

theorem answers_setReg_bitwise {f : Bool → Bool → Bool} (hexec : exec i s = .next (s.setReg x r).advance)
    (hr : ∀ k, k < 8 → r.getLsbD k = f ((s.reg x).getLsbD k) ((s.reg y).getLsbD k)) :
    Answers i s (SetsRegBitwise f x y s) := by
  obtain ⟨t, ht, ⟨hvalue, hother⟩, hpc, hframe⟩ := answers_setReg hexec rfl
  have hx : t.reg x = r := BitVec.eq_of_toNat_eq hvalue
  exact ⟨t, ht, fun k hk => by rw [hx, hr k hk], hother, hpc, hframe⟩

theorem answers_setResultAndFlag {b : Bool} {value flag : Nat}
    (hexec : exec i s = .next (s.setResultAndFlag x r b).advance) (hr : r.toNat = value)
    (hb : (flagByte b).toNat = flag) :
    Answers i s fun t => SetsRegAndFlag x value flag s t ∧ PcPlus 2 s t ∧ OnlyRegsPc s t := by
  subst hr hb
  exact ⟨_, hexec, setsRegAndFlag_setResultAndFlag_advance s x r b, pcPlus_advance rfl,
    onlyRegsPc_advance (onlyRegsPc_setReg (onlyRegsPc_setReg (onlyRegsPc_refl s) x r) vF (flagByte b))⟩

end

end Machine
end Sys2Proof

open Sys2Proof Sys2Proof.Machine

/-- Settles O20: both meanings write `Vx` alone (`answers_setReg`), the second the byte sum, which is modulo 256. -/
theorem immediateLoadAndAdd : Obligations.ImmediateLoadAndAdd := by
  refine ⟨encodedBy_of_plain ?_, encodedBy_of_plain ?_, fun s x nn => ⟨?ldImm, ?addImm⟩⟩
  case ldImm => exact answers_setReg rfl rfl
  case addImm => exact answers_setReg rfl (BitVec.toNat_add (s.reg x) nn)
  all_goals simp [opcodeRowsPlain]

/-- Settles O21: each meaning writes `Vx` alone, with the byte whose bits are the operation's
(`answers_setReg_bitwise`). -/
theorem movesAndLogicBitByBit : Obligations.MovesAndLogicBitByBit := by
  refine ⟨encodedBy_of_row8 ?_, encodedBy_of_row8 ?_, encodedBy_of_row8 ?_, encodedBy_of_row8 ?_,
    fun s x y => ⟨?ldReg, ?orReg, ?andReg, ?xorReg⟩⟩
  case ldReg => exact answers_setReg_bitwise rfl fun _ _ => rfl
  case orReg => exact answers_setReg_bitwise rfl fun _ _ => BitVec.getLsbD_or
  case andReg => exact answers_setReg_bitwise rfl fun _ _ => BitVec.getLsbD_and
  case xorReg => exact answers_setReg_bitwise rfl fun _ _ => BitVec.getLsbD_xor
  all_goals simp [opcodeRows8]

/-- Settles O22: the byte sum is modulo 256, and `carryOut` compares the sum that is not reduced. -/
theorem addGivesSumAndCarry : Obligations.AddGivesSumAndCarry := by
  refine ⟨encodedBy_of_row8 ?row, fun s x y => ?addReg⟩
  case row => simp [opcodeRows8]
  case addReg =>
    exact answers_setResultAndFlag rfl (BitVec.toNat_add _ _) (toNat_flagByte_carryOut _ _)

/-- Settles O23: the byte difference is modulo 256 (`byte_toNat_sub`), and `notBorrow` compares minuend and
subtrahend in the order in which they are subtracted. -/
theorem subtractionsGiveDifferenceAndNotBorrow : Obligations.SubtractionsGiveDifferenceAndNotBorrow := by
  refine ⟨encodedBy_of_row8 ?_, encodedBy_of_row8 ?_, fun s x y => ⟨?sub, ?subn⟩⟩
  case sub => exact answers_setResultAndFlag rfl (byte_toNat_sub _ _) (toNat_flagByte_notBorrow _ _)
  case subn => exact answers_setResultAndFlag rfl (byte_toNat_sub _ _) (toNat_flagByte_notBorrow _ _)
  all_goals simp [opcodeRows8]

/-- Settles O24: a shift by one halves or doubles, and the bit it drops is the remainder of the half, or the top
bit (`toNat_flagByte_shiftedOutLeft`). -/
theorem shiftsGiveTheBitShiftedOut : Obligations.ShiftsGiveTheBitShiftedOut := by
  refine ⟨encodedBy_of_row8 ?_, encodedBy_of_row8 ?_, fun s x => ⟨?shr, ?shl⟩⟩
  case shr =>
    exact answers_setResultAndFlag rfl (byte_toNat_shiftRight_one _) (toNat_flagByte_shiftedOutRight _)
  case shl =>
    exact answers_setResultAndFlag rfl (byte_toNat_shiftLeft_one _) (toNat_flagByte_shiftedOutLeft _)
  all_goals simp [opcodeRows8]

end

section
/-! PROOFS. Setting `I`, and storing registers from `I` on (spec/43_address_and_memory.md R230, R235). -/

open Sys2Proof.Claim

namespace Sys2Proof

theorem mem_opcodeMap_of_rowEF {row : OpcodeRow} (h : row ∈ opcodeRowsEF) : row ∈ opcodeMap :=
  List.mem_append_right _ h

/-- A row of families E and F, with its fields written out as the statements have them. -/
theorem encodedBy_of_rowEF {mask pattern : Word} {build : Word → Instr}
    (h : ⟨mask, pattern, build⟩ ∈ opcodeRowsEF) : EncodedBy mask pattern build :=
  encodedBy_of_mem_opcodeMap (mem_opcodeMap_of_rowEF h)

namespace Machine

/-! ### `I` as a number (R24) -/

theorem toNat_zextAddr (nnn : Addr) : (zextAddr nnn).toNat = nnn.toNat :=
  BitVec.toNat_setWidth_of_le (by decide)

theorem State.toNat_i_stepI (s : State) (x : RegIdx) :
    (s.stepI x).i.toNat = (s.i.toNat + x.val + 1) % 65536 := by
  simp only [State.stepI_eq, State.setI_i, BitVec.toNat_add, BitVec.toNat_ofNat]
  omega

/-! ### The registers that are stored, `V0` to `Vx` in order -/

theorem State.length_regsUpTo (s : State) (x : RegIdx) : (s.regsUpTo x).length = x.val + 1 := by
  rw [State.regsUpTo, List.length_take, Vector.length_toList]
  exact Nat.min_eq_left x.isLt

theorem State.lt_length_regsUpTo (s : State) {k x : RegIdx} (h : k ≤ x) : k.val < (s.regsUpTo x).length := by
  rw [s.length_regsUpTo]
  exact Nat.lt_succ_of_le h

theorem State.getElem_regsUpTo (s : State) {k x : RegIdx} (h : k.val < (s.regsUpTo x).length) :
    (s.regsUpTo x)[k.val] = s.reg k := by
  simp [State.regsUpTo, State.reg]

/-! ### Memory after the store, at every address (R61, R235) -/

theorem State.memRead_storedRegs (s : State) {k x : RegIdx} (h : k ≤ x) :
    (s.memWriteBytes (s.atI 0) (s.regsUpTo x)).memRead ((s.i.toNat + k.val) % 4096) = s.reg k := by
  have hk := s.lt_length_regsUpTo h
  have hlen : (s.regsUpTo x).length ≤ 4096 := by rw [s.length_regsUpTo]; omega
  rw [State.memRead_wrap, ← s.getElem_regsUpTo hk]
  exact Memory.read_writeBytes_inside _ s.mem s.i.toNat k.val hk hlen

theorem State.memRead_outside_storedRegs (s : State) {x : RegIdx} {a : Nat} (ha : a < 4096)
    (h : ∀ k, k ≤ x → a ≠ (s.i.toNat + k.val) % 4096) :
    (s.memWriteBytes (s.atI 0) (s.regsUpTo x)).memRead a = s.memRead a := by
  refine Memory.read_writeBytes_outside _ s.mem s.i.toNat a fun k hk => ?_
  rw [s.length_regsUpTo] at hk
  rw [wrapAddr, Nat.mod_eq_of_lt ha]
  exact h ⟨k, by omega⟩ (Nat.le_of_lt_succ hk)

/-! ### What the two meanings leave alone -/

theorem onlyIPc_setI {s t : State} (h : OnlyIPc s t) (w : Word) : OnlyIPc s (t.setI w) := h

theorem onlyIPc_advance {s t : State} (h : OnlyIPc s t) : OnlyIPc s t.advance := h

theorem onlyIPc_refl (s : State) : OnlyIPc s s := ⟨fun _ => rfl, (onlyRegsPc_refl s).2⟩

theorem onlyMemIPc_of_onlyIPc {s t : State} (h : OnlyIPc s t) : OnlyMemIPc s t := by
  obtain ⟨hregs, -, hrest⟩ := h
  exact ⟨hregs, hrest⟩

theorem onlyMemIPc_setMem {s t : State} (h : OnlyMemIPc s t) (m : Memory) : OnlyMemIPc s (t.setMem m) := h

theorem onlyMemIPc_setI {s t : State} (h : OnlyMemIPc s t) (w : Word) : OnlyMemIPc s (t.setI w) := h

theorem onlyMemIPc_advance {s t : State} (h : OnlyMemIPc s t) : OnlyMemIPc s t.advance := h

end Machine
end Sys2Proof

open Sys2Proof Sys2Proof.Machine

/-- Settles O32: the bytes written are `V0` to `Vx` in order (`State.getElem_regsUpTo`), at most 16 of them, so that
none overwrites another, and no address outside them is written. -/
theorem storeRegisters : Obligations.StoreRegisters := by
  refine ⟨encodedBy_of_rowEF ?row, fun s x => ⟨_, rfl, ?stored, ?others, ?address, pcPlus_advance rfl, ?frame⟩⟩
  case row => simp [opcodeRowsEF]
  case stored => exact fun k hk => s.memRead_storedRegs hk
  case others => exact fun a ha hout => s.memRead_outside_storedRegs ha hout
  case address => exact s.toNat_i_stepI x
  case frame =>
    have hrefl : OnlyMemIPc s s := onlyMemIPc_of_onlyIPc (onlyIPc_refl s)
    exact onlyMemIPc_advance (onlyMemIPc_setI (onlyMemIPc_setMem hrefl _) _)

/-- Settles O28: widening an address with zeros keeps its number (`toNat_zextAddr`). -/
theorem loadAddressRegister : Obligations.LoadAddressRegister := by
  refine ⟨encodedBy_of_plain ?row, fun s nnn => ⟨_, rfl, toNat_zextAddr nnn, pcPlus_advance rfl, ?frame⟩⟩
  case row => simp [opcodeRowsPlain]
  case frame => exact onlyIPc_advance (onlyIPc_setI (onlyIPc_refl s) (zextAddr nnn))

end

section
/-! PROOFS. Clearing the screen (spec/44_display.md R261). -/

open Sys2Proof.Claim

namespace Sys2Proof

theorem mem_opcodeMap_of_row0 {row : OpcodeRow} (h : row ∈ opcodeRows0) : row ∈ opcodeMap :=
  List.mem_append_left _ (List.mem_append_left _ (List.mem_append_left _ h))

/-- A row of family 0, with its fields written out as the statements have them. -/
theorem encodedBy_of_row0 {mask pattern : Word} {build : Word → Instr}
    (h : ⟨mask, pattern, build⟩ ∈ opcodeRows0) : EncodedBy mask pattern build :=
  encodedBy_of_mem_opcodeMap (mem_opcodeMap_of_row0 h)

namespace Machine

/-- The screen of the state, cleared over the active rectangle of its mode. -/
def State.clearedFb (s : State) : Framebuffer := s.fb.clear (modeWidth s.mode) (modeHeight s.mode)

theorem exec_cls (s : State) : exec .cls s = .next (s.setFb s.clearedFb).advance := rfl

theorem State.pixel_clearedFb (s : State) (y x : Nat) : s.clearedFb.pixel y x =
    if y < modeHeight s.mode ∧ x < modeWidth s.mode then false else s.pixel y x :=
  Framebuffer.pixel_clear (modeWidth_le _) (modeHeight_le _) s.fb y x

theorem State.pixel_clearedFb_of_inActive {s : State} {y x : Nat} (h : s.inActive y x) :
    s.clearedFb.pixel y x = false :=
  (s.pixel_clearedFb y x).trans (if_pos h)

theorem State.pixel_clearedFb_of_not_inActive {s : State} {y x : Nat} (h : ¬s.inActive y x) :
    s.clearedFb.pixel y x = s.pixel y x :=
  (s.pixel_clearedFb y x).trans (if_neg h)

/-! ### What a new screen leaves alone -/

theorem onlyPixelsPc_of_onlyPc {s t : State} (h : OnlyPc s t) : OnlyPixelsPc s t := by
  obtain ⟨hregs, hi, hmem, hstack, htimers, ⟨hmode, -⟩, hrest⟩ := h
  exact ⟨hregs, hi, hmode, hmem, hstack, htimers, hrest⟩

theorem onlyPixelsPc_setFb {s t : State} (h : OnlyPixelsPc s t) (g : Framebuffer) : OnlyPixelsPc s (t.setFb g) := h

theorem onlyPixelsPc_advance {s t : State} (h : OnlyPixelsPc s t) : OnlyPixelsPc s t.advance := h

theorem onlyPixelsPc_refl (s : State) : OnlyPixelsPc s s := onlyPixelsPc_of_onlyPc (onlyPc_setPc s s.pc)

end Machine
end Sys2Proof

open Sys2Proof Sys2Proof.Machine

/-- Settles O36: the encoding is a row of family 0, and the pixels of the cleared screen are known on both sides of the
border of the active region (`State.pixel_clearedFb_of_inActive`, `State.pixel_clearedFb_of_not_inActive`). -/
theorem clearZeroesTheActiveRegion : Obligations.ClearZeroesTheActiveRegion := by
  refine ⟨encodedBy_of_row0 ?row, fun s => ⟨_, exec_cls s, ?inside, ?outside, ?pc, ?frame⟩⟩
  case row => simp [opcodeRows0]
  case inside => exact fun y x h => State.pixel_clearedFb_of_inActive h
  case outside => exact fun y x h => State.pixel_clearedFb_of_not_inActive h
  case pc => exact pcPlus_advance (s.setFb_pc s.clearedFb)
  case frame => exact onlyPixelsPc_advance (onlyPixelsPc_setFb (onlyPixelsPc_refl s) s.clearedFb)

end

section
/-! PROOFS. Reading and writing the timers (spec/45_input_and_timers.md R302, R304, R305). -/

open Sys2Proof.Claim

namespace Sys2Proof.Machine

/-- Nothing but the timers and the `PC` changed. -/
def OnlyTimersPc (s t : State) : Prop :=
  SameRegs s t ∧ t.i = s.i ∧ SameMem s t ∧ SameStack s t ∧ SameDisplay s t ∧ SameInput s t ∧ SameCount s t ∧
    SameHost s t

theorem onlyTimersPc_of_onlyPc {s t : State} (h : OnlyPc s t) : OnlyTimersPc s t := by
  obtain ⟨hregs, hi, hmem, hstack, -, hrest⟩ := h
  exact ⟨hregs, hi, hmem, hstack, hrest⟩

theorem onlyTimersPc_setDt {s t : State} (h : OnlyTimersPc s t) (b : Byte) : OnlyTimersPc s (t.setDt b) := h

theorem onlyTimersPc_setSt {s t : State} (h : OnlyTimersPc s t) (b : Byte) : OnlyTimersPc s (t.setSt b) := h

theorem onlyTimersPc_advance {s t : State} (h : OnlyTimersPc s t) : OnlyTimersPc s t.advance := h

theorem onlyTimersPc_refl (s : State) : OnlyTimersPc s s := onlyTimersPc_of_onlyPc (onlyPc_setPc s s.pc)

theorem exec_ldVxDt (x : RegIdx) (s : State) : exec (.ldVxDt x) s = .next (s.setReg x s.dt).advance := rfl

theorem exec_ldDtVx (x : RegIdx) (s : State) : exec (.ldDtVx x) s = .next (s.setDt (s.reg x)).advance := rfl

theorem exec_ldStVx (x : RegIdx) (s : State) : exec (.ldStVx x) s = .next (s.setSt (s.reg x)).advance := rfl

end Sys2Proof.Machine

open Sys2Proof Sys2Proof.Machine

/-- Settles O45: the read writes `Vx` alone (`answers_setReg`), and each write sets its own timer, leaves the other
and keeps everything else (`onlyTimersPc_setDt`, `onlyTimersPc_setSt`). -/
theorem timerReadsAndWrites : Obligations.TimerReadsAndWrites := by
  refine ⟨encodedBy_of_rowEF ?_, encodedBy_of_rowEF ?_, encodedBy_of_rowEF ?_,
    fun s x => ⟨?readDt, ?writeDt, ?writeSt⟩⟩
  case readDt => exact answers_setReg (exec_ldVxDt x s) rfl
  case writeDt =>
    exact ⟨_, exec_ldDtVx x s, s.setDt_dt (s.reg x), s.setDt_st (s.reg x), pcPlus_advance (s.setDt_pc (s.reg x)),
      onlyTimersPc_advance (onlyTimersPc_setDt (onlyTimersPc_refl s) (s.reg x))⟩
  case writeSt =>
    exact ⟨_, exec_ldStVx x s, s.setSt_st (s.reg x), s.setSt_dt (s.reg x), pcPlus_advance (s.setSt_pc (s.reg x)),
      onlyTimersPc_advance (onlyTimersPc_setSt (onlyTimersPc_refl s) (s.reg x))⟩
  all_goals simp [opcodeRowsEF]

end

section
/-! PROOFS. The absorbed stack faults (spec/60_exceptions.md R332). -/

open Sys2Proof.Claim

namespace Sys2Proof.Machine

/-- `State.advance` writes the `PC` and no other field of the state. -/
theorem State.advance_eq_with_pc (s : State) : s.advance = { s with pc := s.advance.pc } := rfl

/-- The absorbed form of a stack fault, R332: an instruction that answers `s.advance` moves the `PC` by 2 and changes
nothing else. -/
theorem answers_absorbed_of_advance {i : Instr} {s : State} (hexec : exec i s = .next s.advance) :
    Answers i s fun t => PcPlus 2 s t ∧ t = { s with pc := t.pc } :=
  ⟨s.advance, hexec, pcPlus_advance rfl, s.advance_eq_with_pc⟩

end Sys2Proof.Machine

open Sys2Proof.Machine

/-- Settles O16: a full stack and an empty one select the branches of `CALL` and `RET` that only advance
(`exec_call_of_full`, `exec_ret_of_zero`), and both are the absorbed form (`answers_absorbed_of_advance`). -/
theorem stackOverflowAndUnderflowAreAbsorbed : Obligations.StackOverflowAndUnderflowAreAbsorbed := by
  intro s nnn
  constructor
  · intro hfull
    exact answers_absorbed_of_advance (exec_call_of_full hfull nnn)
  · intro hempty
    exact answers_absorbed_of_advance (exec_ret_of_zero hempty)

end

section
/-! PROOFS. The key wait within a `step()` (spec/70_reset_and_hazards.md R367, R344). -/

namespace Sys2Proof.Machine

/-- A state that a transition maps to itself stays as it is however often the transition is applied. -/
theorem repeatTimes_of_fixed {f : State → Result} {s : State} (h : f s = .next s) (n : Nat) :
    repeatTimes f n s = .next s := by
  induction n with
  | zero => rfl
  | succ n ih =>
    simp only [repeatTimes, h]
    exact ih

theorem cycle_of_keyWait {s : State} {x : RegIdx} (hword : decodeWord s.fetchWord = .ldVxK x)
    (hlatch : s.latch.pending = false) : cycle s = .next s := by
  rw [cycle, hword]
  exact exec_ldVxK_of_not_pending hlatch x

end Sys2Proof.Machine

open Sys2Proof.Machine

/-- Settles O46: a cycle at the wait gives the same state (`cycle_of_keyWait`), so any number of cycles does
(`repeatTimes_of_fixed`), and the tick at the end of the `step()` writes the two timers alone. -/
theorem keyWaitBlocksTheStep : Obligations.KeyWaitBlocksTheStep := by
  intro s x hword hlatch
  have hexecute : ∀ n, execute n s = .next s := repeatTimes_of_fixed (cycle_of_keyWait hword hlatch)
  exact ⟨hexecute, s.tickTimers, hostStep_of_execute (hexecute s.cyclesPerStep), toNat_tick s.dt, toNat_tick s.st, rfl⟩

end

section
/-! PROOFS. The decoder against the encoder and the opcode map (spec/30_encoding.md R97 to R100). -/

namespace Sys2Proof

/-! ### The words of R98's list are those that select no row -/

/-- R98's list by the word's fields. -/
theorem unrecognizedWord_eq (w : Word) : unrecognizedWord w =
    if opF w = 0x0#4 then
      !([0xE0#8, 0xEE#8, 0xFB#8, 0xFC#8, 0xFE#8, 0xFF#8].contains (opNN w)) && w.extractLsb' 4 4 != 0xC#4
    else if opF w = 0x8#4 then [0x8#4, 0x9#4, 0xA#4, 0xB#4, 0xC#4, 0xD#4, 0xF#4].contains (opN w)
    else if opF w = 0xE#4 then !([0x9E#8, 0xA1#8].contains (opNN w))
    else if opF w = 0xF#4 then
      !([0x07#8, 0x0A#8, 0x15#8, 0x18#8, 0x1E#8, 0x29#8, 0x30#8, 0x33#8, 0x55#8, 0x65#8].contains (opNN w))
    else false := rfl

/-- Family 8: R97 lists the nibbles that select a row, R98 those that select none. -/
theorem not_mem_selectors8_iff : ∀ n : BitVec 4,
    n ∉ [0x0#4, 0x1#4, 0x2#4, 0x3#4, 0x4#4, 0x5#4, 0x6#4, 0x7#4, 0xE#4] ↔
      n ∈ [0x8#4, 0x9#4, 0xA#4, 0xB#4, 0xC#4, 0xD#4, 0xF#4] := by decide

theorem family_plain_iff : ∀ f : BitVec 4,
    f ∈ [0x1#4, 0x2#4, 0x3#4, 0x4#4, 0x5#4, 0x6#4, 0x7#4, 0x9#4, 0xA#4, 0xB#4, 0xC#4, 0xD#4] ↔
      ¬(f = 0x0#4 ∨ f = 0x8#4 ∨ f = 0xE#4 ∨ f = 0xF#4) := by decide

theorem no_row_iff (w : Word) :
    (∀ row ∈ opcodeMap, w &&& row.mask ≠ row.pattern) ↔ unrecognizedWord w = true := by
  simp only [opcodeMap, List.forall_mem_append, no_row0_iff, no_rowPlain_iff, no_row8_iff, no_rowEF_iff,
    family_plain_iff, not_not, not_mem_selectors8_iff, unrecognizedWord_eq]
  by_cases hf : opF w = 0x0#4 ∨ opF w = 0x8#4 ∨ opF w = 0xE#4 ∨ opF w = 0xF#4
  · rcases hf with hf | hf | hf | hf
    · simp [hf, and_assoc, and_left_comm, and_comm]
    · simp [hf]
    · simp [hf]
    · simp [hf]
  · obtain ⟨h0, h8, hE, hF⟩ : opF w ≠ 0x0#4 ∧ opF w ≠ 0x8#4 ∧ opF w ≠ 0xE#4 ∧ opF w ≠ 0xF#4 := by
      simpa only [not_or] using hf
    simp [h0, h8, hE, hF]

/-- No row of R97 stands for an unrecognized word. -/
theorem build_ne_unrecognized (w : Word) : ∀ row ∈ opcodeMap, row.build w ≠ .unrecognized w := by
  simp [opcodeMap, opcodeRows0, opcodeRowsPlain, opcodeRows8, opcodeRowsEF]

theorem decodeWord_eq_unrecognized_iff (w : Word) :
    decodeWord w = .unrecognized w ↔ unrecognizedWord w = true := by
  rw [← no_row_iff]
  constructor
  · intro h row hrow hsel
    exact build_ne_unrecognized w row hrow ((decodeWord_of_row row hrow hsel).symm.trans h)
  · exact decodeWord_of_no_row

theorem unrecognizedWord_ignores_x (f x : BitVec 4) (nn : Byte) :
    unrecognizedWord (f ++ x ++ nn) = unrecognizedWord (f ++ 0x0#4 ++ nn) := by
  obtain ⟨y, n, rfl⟩ := byte_nibbles nn
  simp only [append_nibbles2, unrecognizedWord_eq, opF_nibbles, opNN_nibbles, low2_nibbles, opN_nibbles]

/-- R98's count of each family, divided by the 16 values of the nibble that does not matter. -/
theorem countP_unrecognizedWord : ∀ f : BitVec 4,
    (List.range 256).countP (fun nn => unrecognizedWord (f ++ 0x0#4 ++ BitVec.ofNat 8 nn)) =
      if f = 0x0 then 234 else if f = 0x8 then 112 else if f = 0xE then 254 else if f = 0xF then 246 else 0 := by
  decide +kernel

/-! ### No two rows overlap -/

/-- Two rows whose patterns differ on the bits that both masks fix are selected by no word together. -/
theorem rows_disjoint {a b : OpcodeRow} (h : a.pattern &&& b.mask ≠ b.pattern &&& a.mask) (w : Word) :
    ¬(w &&& a.mask = a.pattern ∧ w &&& b.mask = b.pattern) := by
  rintro ⟨ha, hb⟩
  apply h
  rw [← ha, ← hb, BitVec.and_assoc, BitVec.and_assoc, BitVec.and_comm a.mask]

theorem opcodeMap_patterns_differ :
    opcodeMap.Pairwise fun a b => a.pattern &&& b.mask ≠ b.pattern &&& a.mask := by
  decide +kernel

/-! ### A word from its fields, as the encoder writes them -/

section
variable {w : Word} {f n : BitVec 4} {b : Byte}

theorem addr_word (hf : opF w = f) : (f ++ opNNN w : Word) = w := by
  obtain ⟨f', x, y, n, rfl⟩ := nibbles_cases w
  rw [← hf, opF_nibbles, opNNN_nibbles, append_nibbles3]

theorem byte_word (hf : opF w = f) (hb : opNN w = b) : (f ++ regField (opX w) ++ b : Word) = w := by
  obtain ⟨f', x, y, n, rfl⟩ := nibbles_cases w
  rw [← hf, ← hb, opF_nibbles, opX_nibbles, opNN_nibbles, regField_of_toFin, append_nibbles2]

theorem nibble_word (hf : opF w = f) (hn : opN w = n) :
    (f ++ regField (opX w) ++ regField (opY w) ++ n : Word) = w := by
  obtain ⟨f', x, y, n', rfl⟩ := nibbles_cases w
  rw [← hf, ← hn, opF_nibbles, opX_nibbles, opY_nibbles, opN_nibbles, regField_of_toFin, regField_of_toFin]

theorem ignored_n_word (hf : opF w = f) :
    (f ++ regField (opX w) ++ regField (opY w) ++ 0x0#4 : Word) = w &&& 0xFFF0#16 := by
  obtain ⟨f', x, y, n', rfl⟩ := nibbles_cases w
  rw [← hf, show 0xFFF0#16 = nibbles 0xF 0xF 0xF 0 by decide, nibbles_and]
  simp [nibble_and_15]

theorem ignored_y_word (hf : opF w = f) (hy : b.extractLsb' 4 4 = 0x0#4) (hn : opN w = b.extractLsb' 0 4) :
    (f ++ regField (opX w) ++ b : Word) = w &&& 0xFF0F#16 := by
  obtain ⟨f', x, y, n, rfl⟩ := nibbles_cases w
  obtain ⟨y', n', rfl⟩ := byte_nibbles b
  rw [BitVec.extractLsb'_append_eq_left] at hy
  rw [BitVec.extractLsb'_append_eq_right, opN_nibbles] at hn
  rw [← hf, hy, ← hn, opF_nibbles, opX_nibbles, regField_of_toFin, append_nibbles2,
    show 0xFF0F#16 = nibbles 0xF 0xF 0 0xF by decide, nibbles_and]
  simp [nibble_and_15]

theorem scd_word (h : w &&& 0xF0F0#16 = 0x00C0#16) : (0x00C#12 ++ opN w : Word) = w &&& 0xF0FF#16 := by
  rw [and_eq_iff_nibbles] at h
  obtain ⟨f, x, y, n, rfl⟩ := nibbles_cases w
  obtain ⟨rfl, rfl⟩ : f = 0x0#4 ∧ y = 0xC#4 := by simpa [nibble_and_15] using h
  rw [opN_nibbles, show 0x00C#12 = 0x0#4 ++ 0x0#4 ++ 0xC#4 by decide]
  exact (nibbles_and_low _ _ _ _).symm

theorem and_FFFF (w : Word) : w &&& 0xFFFF#16 = w := BitVec.and_allOnes

end

/-! ### Encoding what a row stands for -/

/-- R100, of the instruction a word is read as: it is well formed, and its encoding is the word without the ignored
bits. -/
def EncodesExaminedBits (w : Word) (i : Instr) : Prop := i.wf = true ∧ encode i = w &&& examinedBits i

section
variable (w : Word)

theorem encodesExaminedBits_row0 : ∀ row ∈ opcodeRows0, w &&& row.mask = row.pattern →
    EncodesExaminedBits w (row.build w) := by
  simp +contextual [opcodeRows0, EncodesExaminedBits, Instr.wf, encode, examinedBits, scd_word]

theorem encodesExaminedBits_rowPlain : ∀ row ∈ opcodeRowsPlain, w &&& row.mask = row.pattern →
    EncodesExaminedBits w (row.build w) := by
  simp +contextual [opcodeRowsPlain, and_eq_iff_nibbles, nibble_and_15, EncodesExaminedBits, Instr.wf, encode,
    examinedBits, and_FFFF, addr_word, byte_word, nibble_word, ignored_n_word]

theorem encodesExaminedBits_row8 : ∀ row ∈ opcodeRows8, w &&& row.mask = row.pattern →
    EncodesExaminedBits w (row.build w) := by
  simp +contextual [opcodeRows8, and_eq_iff_nibbles, nibble_and_15, EncodesExaminedBits, Instr.wf, encode,
    examinedBits, and_FFFF, nibble_word, ignored_y_word]

theorem encodesExaminedBits_rowEF : ∀ row ∈ opcodeRowsEF, w &&& row.mask = row.pattern →
    EncodesExaminedBits w (row.build w) := by
  simp +contextual [opcodeRowsEF, and_eq_iff_nibbles, nibble_and_15, EncodesExaminedBits, Instr.wf, encode,
    examinedBits, and_FFFF, byte_word, opNN_eq_iff_nibbles]

theorem encodesExaminedBits_row : ∀ row ∈ opcodeMap, w &&& row.mask = row.pattern →
    EncodesExaminedBits w (row.build w) := by
  simp only [opcodeMap, List.forall_mem_append]
  exact ⟨⟨⟨encodesExaminedBits_row0 w, encodesExaminedBits_rowPlain w⟩, encodesExaminedBits_row8 w⟩,
    encodesExaminedBits_rowEF w⟩

theorem encodesExaminedBits_unrecognized (h : unrecognizedWord w = true) :
    EncodesExaminedBits w (.unrecognized w) :=
  ⟨h, (and_FFFF w).symm⟩

end

/-! ### The ignored bits of a word (R100) -/

theorem decodeWord_family5 (x y n : BitVec 4) : decodeWord (nibbles 0x5 x y n) = .seReg x.toFin y.toFin := by
  simp [decodeWord]

theorem decodeWord_family9 (x y n : BitVec 4) : decodeWord (nibbles 0x9 x y n) = .sneReg x.toFin y.toFin := by
  simp [decodeWord]

theorem decodeWord_shr (x y : BitVec 4) : decodeWord (nibbles 0x8 x y 0x6) = .shr x.toFin := by
  simp [decodeWord, decodeFamily8]

theorem decodeWord_shl (x y : BitVec 4) : decodeWord (nibbles 0x8 x y 0xE) = .shl x.toFin := by
  simp [decodeWord, decodeFamily8]

/-- Two unrecognized words do the same; every other word of family 0 is decoded by its low byte alone. -/
theorem exec_family0 (x : BitVec 4) (nn : Byte) (s : Machine.State) :
    Machine.exec (decodeWord (0x0#4 ++ x ++ nn)) s = Machine.exec (decodeWord (0x0#4 ++ 0x0#4 ++ nn)) s := by
  obtain ⟨y, n, rfl⟩ := byte_nibbles nn
  simp only [append_nibbles2, decodeWord, decodeFamily0, opF_nibbles, low2_nibbles, opN_nibbles, opNN_nibbles]
  split
  case isTrue => rfl
  case isFalse => split <;> rfl

/-! ### Decoding what the encoder writes -/

/-- `RowOfEncoding` for every instruction. -/
theorem rowOfEncoding (i : Instr) : Laws.RowOfEncoding.Statement i := by
  cases i with
  | cls => exact Laws.RowOfEncoding.cls
  | ret => exact Laws.RowOfEncoding.ret
  | scd n => exact Laws.RowOfEncoding.scd n
  | scr => exact Laws.RowOfEncoding.scr
  | scl => exact Laws.RowOfEncoding.scl
  | low => exact Laws.RowOfEncoding.low
  | high => exact Laws.RowOfEncoding.high
  | jp a => exact Laws.RowOfEncoding.jp a
  | call a => exact Laws.RowOfEncoding.call a
  | seImm x nn => exact Laws.RowOfEncoding.seImm x nn
  | sneImm x nn => exact Laws.RowOfEncoding.sneImm x nn
  | seReg x y => exact Laws.RowOfEncoding.seReg x y
  | ldImm x nn => exact Laws.RowOfEncoding.ldImm x nn
  | addImm x nn => exact Laws.RowOfEncoding.addImm x nn
  | ldReg x y => exact Laws.RowOfEncoding.ldReg x y
  | orReg x y => exact Laws.RowOfEncoding.orReg x y
  | andReg x y => exact Laws.RowOfEncoding.andReg x y
  | xorReg x y => exact Laws.RowOfEncoding.xorReg x y
  | addReg x y => exact Laws.RowOfEncoding.addReg x y
  | sub x y => exact Laws.RowOfEncoding.sub x y
  | shr x => exact Laws.RowOfEncoding.shr x
  | subn x y => exact Laws.RowOfEncoding.subn x y
  | shl x => exact Laws.RowOfEncoding.shl x
  | sneReg x y => exact Laws.RowOfEncoding.sneReg x y
  | ldI a => exact Laws.RowOfEncoding.ldI a
  | jpV0 a => exact Laws.RowOfEncoding.jpV0 a
  | rnd x nn => exact Laws.RowOfEncoding.rnd x nn
  | drw x y n => exact Laws.RowOfEncoding.drw x y n
  | skp x => exact Laws.RowOfEncoding.skp x
  | sknp x => exact Laws.RowOfEncoding.sknp x
  | ldVxDt x => exact Laws.RowOfEncoding.ldVxDt x
  | ldVxK x => exact Laws.RowOfEncoding.ldVxK x
  | ldDtVx x => exact Laws.RowOfEncoding.ldDtVx x
  | ldStVx x => exact Laws.RowOfEncoding.ldStVx x
  | addI x => exact Laws.RowOfEncoding.addI x
  | ldF x => exact Laws.RowOfEncoding.ldF x
  | ldHf x => exact Laws.RowOfEncoding.ldHf x
  | ldB x => exact Laws.RowOfEncoding.ldB x
  | stRegs x => exact Laws.RowOfEncoding.stRegs x
  | ldRegs x => exact Laws.RowOfEncoding.ldRegs x
  | unrecognized w => exact Laws.RowOfEncoding.unrecognized w

theorem decodeWord_encode {i : Instr} (hwf : i.wf = true) : decodeWord (encode i) = i := by
  rcases rowOfEncoding i with ⟨row, hrow, hsel, hbuild⟩ | ⟨w, rfl, hw⟩
  · exact (decodeWord_of_row row hrow hsel).trans hbuild
  · rw [hw]
    exact (decodeWord_eq_unrecognized_iff w).mpr hwf

end Sys2Proof

open Sys2Proof Sys2Proof.Machine

/-- Settles O2: the word of an instruction selects its row (`rowOfEncoding`), and the decoder reads the row a word
selects; an unrecognized word is well formed only where the decoder reads it so. -/
theorem decodeOfEncodeIsTheInstruction : Obligations.DecodeOfEncodeIsTheInstruction := by
  intro i rest hwf
  refine ⟨rfl, ?_⟩
  rw [encodeBytes, decode_bytesOfWord, decodeWord_encode hwf]

/-- Settles O3: a word that selects a row encodes as that row says (`encodesExaminedBits_row`), and one that selects
none is unrecognized and kept whole. -/
theorem encodeOfDecodeKeepsTheExaminedBits : Obligations.EncodeOfDecodeKeepsTheExaminedBits := by
  intro w
  rcases (everyWordExecutesToCompletion w).1 with ⟨row, hrow, hsel, hdec⟩ | ⟨hnone, hdec⟩
  · rw [hdec]
    exact encodesExaminedBits_row w row hrow hsel
  · rw [hdec]
    exact encodesExaminedBits_unrecognized w ((no_row_iff w).mp hnone)

/-- Settles O4: the decoder reads the row a word selects (`decodeWord_of_row`), and any two rows' patterns differ on
bits that both masks fix (`opcodeMap_patterns_differ`). -/
theorem opcodeMapSelectsTheInstruction : Obligations.OpcodeMapSelectsTheInstruction :=
  ⟨fun _ => decodeWord_of_row, opcodeMap_patterns_differ.imp rows_disjoint⟩

/-- Settles O5: R98's list is the complement of the rows (`no_row_iff`, `decodeWord_eq_unrecognized_iff`), and the
low bytes of each family are counted (`countP_unrecognizedWord`). -/
theorem unrecognizedWordsSelectNoRow : Obligations.UnrecognizedWordsSelectNoRow := by
  refine ⟨fun w => ⟨no_row_iff w, decodeWord_eq_unrecognized_iff w⟩, fun w s hw => ?executes,
    unrecognizedWord_ignores_x, fun f => ?count⟩
  case executes =>
    rw [(decodeWord_eq_unrecognized_iff w).mpr hw]
    exact ⟨s.reportUnrecognized.advance, rfl, pcPlus_advance rfl, rfl⟩
  case count =>
    rw [countP_unrecognizedWord f]
    split_ifs <;> rfl

/-- Settles O7: the fields that the decoder examines are the same in both words. -/
theorem ignoredBitsDoNotChangeTheResult : Obligations.IgnoredBitsDoNotChangeTheResult := by
  intro x y n nn s
  exact ⟨(decodeWord_family5 x y n).trans (decodeWord_family5 x y 0x0#4).symm,
    (decodeWord_family9 x y n).trans (decodeWord_family9 x y 0x0#4).symm,
    exec_family0 x nn s,
    (decodeWord_shr x y).trans (decodeWord_shr x 0x0#4).symm,
    (decodeWord_shl x y).trans (decodeWord_shl x 0x0#4).symm⟩

/-- Settles O1, by decoding each word. -/
theorem wordsOfTheSpecDecode : Obligations.WordsOfTheSpecDecode := by
  unfold Obligations.WordsOfTheSpecDecode
  decide

end

section
/-! PROOFS. Which part of the state each instruction writes (spec/10_state.md sections 3 to 7), and the invariant. -/

open Sys2Proof.Claim

namespace Sys2Proof.Machine

/-! ### The meanings that branch, for any property of their answer -/

theorem answers_ret {s : State} {P : State → Prop}
    (hpop : 0 < s.sp.val → P (s.pop.setPc (s.stack[s.sp.val - 1]?.getD 0 + 2)))
    (hempty : s.sp.val = 0 → P s.advance) : Answers .ret s P := by
  rcases Nat.eq_zero_or_pos s.sp.val with h | h
  · exact ⟨_, exec_ret_of_zero h, hempty h⟩
  · exact ⟨_, exec_ret_of_pos h, hpop h⟩

theorem answers_call {s : State} {nnn : Addr} {P : State → Prop}
    (hroom : s.sp.val < 16 → P ((s.push s.pc).setPc nnn))
    (hfull : s.sp.val = 16 → P s.advance) : Answers (.call nnn) s P := by
  rcases Nat.eq_or_lt_of_le s.sp_le with h | h
  · exact ⟨_, exec_call_of_full h nnn, hfull h⟩
  · exact ⟨_, exec_call_of_room h nnn, hroom h⟩

/-- A push as one update of the state, where every part of it shows. -/
theorem State.push_eq_of_lt {s : State} (h : s.sp.val < 16) (a : Addr) : s.push a =
    { s with stack := s.stack.set s.sp.val a, sp := ⟨s.sp.val + 1, Nat.succ_lt_succ h⟩ } := dif_pos h

theorem answers_ldVxK {s : State} {x : RegIdx} {P : State → Prop}
    (hpress : s.latch.pending = true → P ((s.setReg x (BitVec.ofNat 8 s.latch.key.val)).setLatch
      { s.latch with pending := false }).advance)
    (hnone : s.latch.pending = false → P s) : Answers (.ldVxK x) s P := by
  cases h : s.latch.pending with
  | true => exact ⟨_, exec_ldVxK_of_pending h x, hpress h⟩
  | false => exact ⟨_, exec_ldVxK_of_not_pending h x, hnone h⟩

theorem of_answers {i : Instr} {s t : State} {P : State → Prop} (h : Answers i s P)
    (hexec : exec i s = .next t) : P t := by
  obtain ⟨t', ht', hP⟩ := h
  cases ht'.symm.trans hexec
  exact hP

end Sys2Proof.Machine

open Sys2Proof Sys2Proof.Machine

/-- Settles O47: of the three meanings that branch each branch is read off (`answers_ret`, `answers_call`,
`answers_ldVxK`), every other meaning is one expression in the updates of the state, and the `simp` lemmas of the
updates say which fields they keep. -/
theorem stateIsWrittenOnlyByItsInstructions : Obligations.StateIsWrittenOnlyByItsInstructions := by
  intro i s
  cases i
  case ret => exact answers_ret (fun _ => by simp) (fun _ => by simp [SameStack])
  case call nnn => exact answers_call (fun _ => by simp) (fun _ => by simp [SameStack])
  case ldVxK x => exact answers_ldVxK (fun _ => by simp [SameStack]) (fun _ => by simp [SameStack])
  all_goals exact ⟨_, rfl, by simp [SameStack]⟩

namespace Sys2Proof.Machine

/-! ### The invariant -/

theorem exec_mem_wf {i : Instr} {s t : State} (hexec : exec i s = .next t) (h : s.mem.wf = true) :
    t.mem.wf = true := by
  obtain ⟨-, -, -, -, -, -, -, -, hmem, -⟩ := of_answers (stateIsWrittenOnlyByItsInstructions i s) hexec
  rcases hmem with hmem | ⟨x, rfl | rfl⟩
  · rw [hmem]
    exact h
  · cases hexec
    exact Memory.wf_writeBytes _ _ _ h
  · cases hexec
    exact Memory.wf_writeBytes _ _ _ h

theorem exec_host_fields {i : Instr} {s t : State} (hexec : exec i s = .next t) :
    t.cyclesPerStep = s.cyclesPerStep ∧ t.cyclesLeft = s.cyclesLeft ∧ t.hostOps = s.hostOps := by
  obtain ⟨-, -, -, -, -, -, -, -, -, -, hhost⟩ := of_answers (stateIsWrittenOnlyByItsInstructions i s) hexec
  exact hhost

theorem exec_inv {i : Instr} {s t : State} (hexec : exec i s = .next t) (h : s.Inv) : t.Inv := by
  obtain ⟨hwf, hleft⟩ := h
  obtain ⟨hper, hleft', -⟩ := exec_host_fields hexec
  refine ⟨exec_mem_wf hexec hwf, ?_⟩
  rwa [hper, hleft']

theorem State.inv_reset : State.reset.Inv := ⟨Memory.wf_nil, Nat.zero_le 1⟩

theorem State.loadProgram_mem_wf {s : State} (h : s.mem.wf = true) (image : Option (List Byte)) :
    (s.loadProgram image).mem.wf = true := by
  unfold State.loadProgram
  split
  case h_1 => exact h
  case h_2 bytes =>
    split
    case isTrue => exact Memory.wf_writeBytes bytes s.mem _ h
    case isFalse => exact h

theorem State.setKey_mem (s : State) (k : Nat) (pressed : Bool) : (s.setKey k pressed).mem = s.mem := by
  unfold State.setKey
  split
  · split <;> rfl
  · rfl

theorem State.serve_mem_wf {s : State} (h : s.mem.wf = true) (op : HostOp) : (s.serve op).mem.wf = true := by
  cases op
  case reset => exact Memory.wf_nil
  case loadProgram image => exact State.loadProgram_mem_wf h image
  case setKey k pressed =>
    rw [State.serve, State.setKey_mem]
    exact h
  case step =>
    rw [State.serve, State.beginStep]
    split <;> exact h
  all_goals exact h

/-- Only a `step()` moves the count of cycles left, and it sets `CYCLES_PER_STEP` of them at most. -/
theorem State.serve_inv {s : State} (h : s.Inv) (op : HostOp) : (s.serve op).Inv := by
  obtain ⟨hwf, hleft⟩ := h
  refine ⟨State.serve_mem_wf hwf op, ?_⟩
  rw [State.serve_cyclesPerStep]
  by_cases hop : op = .step
  · subst hop
    rw [State.serve, State.beginStep]
    split
    · exact hleft
    · exact Nat.le_refl _
  · rwa [State.serve_cyclesLeft hop]

theorem hostTurn_inv (ops : List HostOp) {s : State} (h : s.Inv) : (hostTurn ops s).Inv := by
  induction ops generalizing s with
  | nil => exact h
  | cons op rest ih =>
    have hop := State.serve_inv h op
    by_cases hidle : (s.serve op).cyclesLeft = 0
    · rw [hostTurn_cons_of_idle hidle]
      exact ih hop
    · rw [hostTurn_cons_of_busy hidle]
      exact hop

/-! ### The end of a cycle, by the cycles left -/

section
variable {s : State}

theorem State.endOfCycle_of_zero (h : s.cyclesLeft = 0) : s.endOfCycle = s := by
  simp only [State.endOfCycle, h]

theorem State.endOfCycle_of_one (h : s.cyclesLeft = 1) :
    s.endOfCycle = hostTurn s.hostOps { s.tickTimers with cyclesLeft := 0 } := by
  simp only [State.endOfCycle, h]

theorem State.endOfCycle_of_succ_succ {n : Nat} (h : s.cyclesLeft = n + 2) :
    s.endOfCycle = { s with cyclesLeft := n + 1 } := by
  simp only [State.endOfCycle, h]

theorem State.endOfCycle_of_ne_one (h : s.cyclesLeft ≠ 1) :
    s.endOfCycle = { s with cyclesLeft := s.cyclesLeft - 1 } := by
  rcases hleft : s.cyclesLeft with _ | _ | n
  · rw [State.endOfCycle_of_zero hleft]
    change s = { s with cyclesLeft := 0 }
    rw [← hleft]
  · exact absurd hleft h
  · exact State.endOfCycle_of_succ_succ hleft

theorem State.endOfCycle_inv (h : s.Inv) : s.endOfCycle.Inv := by
  obtain ⟨hwf, hleft⟩ := h
  by_cases hone : s.cyclesLeft = 1
  · rw [State.endOfCycle_of_one hone]
    exact hostTurn_inv _ ⟨hwf, Nat.zero_le _⟩
  · rw [State.endOfCycle_of_ne_one hone]
    exact ⟨hwf, (Nat.sub_le _ _).trans hleft⟩

theorem step_of_cycle {t : State} (h : cycle s = .next t) : step s = .next t.endOfCycle := by
  simp only [step, h]

end

end Sys2Proof.Machine

/-- Settles O59: the instruction completes and keeps the invariant (`exec_next`, `exec_inv`), and so does the end of the
cycle, the host's operations included (`State.endOfCycle_inv`). -/
theorem stepKeepsTheInvariant : Obligations.StepKeepsTheInvariant := by
  intro s h
  obtain ⟨t, ht⟩ := exec_next (decodeWord s.fetchWord) s
  exact ⟨t.endOfCycle, step_of_cycle ht, State.endOfCycle_inv (exec_inv ht h)⟩

/-- Settles O58: reset memory lists nothing, and no cycle is left to run. -/
theorem resetMeetsTheInvariant : Obligations.ResetMeetsTheInvariant := State.inv_reset

end

section
/-! PROOFS. The machine's steps and the host's turn (spec/40_cycle_and_host.md R133, R134, R137, R143). -/

open Sys2Proof.Claim

namespace Sys2Proof.Machine

/-! ### The host's turn -/

/-- A state with other cycles left and other operations waiting. -/
def State.withHost (s : State) (left : Nat) (ops : List HostOp) : State :=
  { s with cyclesLeft := left, hostOps := ops }

theorem State.serve_step_of_zero {s : State} (h : s.cyclesPerStep = 0) : s.serve .step = s.tickTimers := if_pos h

theorem State.serve_step_of_pos {s : State} (h : s.cyclesPerStep ≠ 0) :
    s.serve .step = { s with cyclesLeft := s.cyclesPerStep } := if_neg h

/-- A `step()` with cycles to run ends the host's turn. -/
theorem hostTurn_step_of_pos {s : State} (h : s.cyclesPerStep ≠ 0) (rest : List HostOp) :
    hostTurn (.step :: rest) s = s.withHost s.cyclesPerStep rest := by
  have hserve := State.serve_step_of_pos h
  rw [hostTurn_cons_of_busy (by rw [hserve]; exact h), hserve]
  rfl

/-- A `step()` of no cycles is over at once, and the host goes on. -/
theorem hostTurn_step_of_zero {s : State} (hleft : s.cyclesLeft = 0) (h : s.cyclesPerStep = 0)
    (rest : List HostOp) : hostTurn (.step :: rest) s = hostTurn rest s.tickTimers := by
  have hserve := State.serve_step_of_zero h
  rw [hostTurn_cons_of_idle (by rw [hserve]; exact hleft), hserve]

section
variable {ops : List HostOp}

theorem foldl_serve_cyclesPerStep (s : State) : (ops.foldl State.serve s).cyclesPerStep = s.cyclesPerStep := by
  induction ops generalizing s with
  | nil => rfl
  | cons op ops ih => rw [List.foldl_cons, ih, State.serve_cyclesPerStep]

variable (hops : .step ∉ ops)
include hops

theorem foldl_serve_cyclesLeft (s : State) : (ops.foldl State.serve s).cyclesLeft = s.cyclesLeft := by
  induction ops generalizing s with
  | nil => rfl
  | cons op ops ih =>
    have hop := List.ne_of_not_mem_cons hops
    have hrest := List.not_mem_of_not_mem_cons hops
    rw [List.foldl_cons, ih hrest, State.serve_cyclesLeft hop.symm]

/-- Operations that begin no cycles are all made, in their order. -/
theorem hostTurn_append {s : State} (hleft : s.cyclesLeft = 0) (rest : List HostOp) :
    hostTurn (ops ++ rest) s = hostTurn rest (ops.foldl State.serve s) := by
  induction ops generalizing s with
  | nil => rfl
  | cons op ops ih =>
    have hop := List.ne_of_not_mem_cons hops
    have hrest := List.not_mem_of_not_mem_cons hops
    have hidle : (s.serve op).cyclesLeft = 0 := (State.serve_cyclesLeft hop.symm s).trans hleft
    rw [List.cons_append, hostTurn_cons_of_idle hidle, ih hrest hidle, List.foldl_cons]

end

/-! ### No instruction reads the host's fields -/

theorem exec_withHost (i : Instr) (s : State) (left : Nat) (ops : List HostOp) :
    Answers i s fun t => exec i (s.withHost left ops) = .next (t.withHost left ops) := by
  cases i
  case ret =>
    exact answers_ret (exec_ret_of_pos (s := s.withHost left ops)) (exec_ret_of_zero (s := s.withHost left ops))
  case call nnn =>
    refine answers_call (fun h => ?_) (fun h => exec_call_of_full (s := s.withHost left ops) h nnn)
    rw [exec_call_of_room (s := s.withHost left ops) h, State.push_eq_of_lt (s := s.withHost left ops) h,
      State.push_eq_of_lt h]
    rfl
  case ldVxK x =>
    exact answers_ldVxK (fun h => exec_ldVxK_of_pending (s := s.withHost left ops) h x)
      (fun h => exec_ldVxK_of_not_pending (s := s.withHost left ops) h x)
  all_goals exact ⟨_, rfl, rfl⟩

theorem cycle_withHost {s t : State} (h : cycle s = .next t) (left : Nat) (ops : List HostOp) :
    cycle (s.withHost left ops) = .next (t.withHost left ops) :=
  of_answers (exec_withHost (decodeWord s.fetchWord) s left ops) h

theorem execute_succ {s t : State} (h : cycle s = .next t) (n : Nat) : execute (n + 1) s = execute n t := by
  simp only [execute, repeatTimes, h]

theorem repeat_step_succ {s t : State} (h : step s = .next t) (n : Nat) :
    repeatTimes step (n + 1) s = repeatTimes step n t := by
  simp only [repeatTimes, h]

theorem cycle_next (s : State) : ∃ t, cycle s = .next t := exec_next (decodeWord s.fetchWord) s

theorem execute_withHost (n : Nat) {s t : State} (h : execute n s = .next t) (left : Nat) (ops : List HostOp) :
    execute n (s.withHost left ops) = .next (t.withHost left ops) := by
  induction n generalizing s with
  | zero =>
    cases h
    rfl
  | succ n ih =>
    obtain ⟨u, hu⟩ := cycle_next s
    rw [execute_succ hu] at h
    rw [execute_succ (cycle_withHost hu left ops)]
    exact ih h

theorem execute_host_fields (n : Nat) {s t : State} (h : execute n s = .next t) :
    t.cyclesLeft = s.cyclesLeft ∧ t.hostOps = s.hostOps := by
  induction n generalizing s with
  | zero =>
    cases h
    exact ⟨rfl, rfl⟩
  | succ n ih =>
    obtain ⟨u, hu⟩ := cycle_next s
    obtain ⟨-, hleft, hops⟩ := exec_host_fields hu
    rw [execute_succ hu] at h
    rw [← hleft, ← hops]
    exact ih h

/-! ### The machine's steps through a `step()` of the host -/

/-- The steps that are left of a `step()`: each but the last only counts down, and the last hands the state over. -/
theorem repeat_step_of_execute (n : Nat) {s t : State} (hleft : s.cyclesLeft = n + 1)
    (h : execute (n + 1) s = .next t) :
    repeatTimes step (n + 1) s = .next (hostTurn s.hostOps (t.tickTimers.withHost 0 s.hostOps)) := by
  induction n generalizing s t with
  | zero =>
    obtain ⟨u, hu⟩ := cycle_next s
    obtain ⟨-, hleft', hops⟩ := exec_host_fields hu
    rw [execute_succ hu] at h
    cases h
    rw [repeat_step_succ (step_of_cycle hu), State.endOfCycle_of_one (hleft'.trans hleft), ← hops]
    rfl
  | succ n ih =>
    obtain ⟨u, hu⟩ := cycle_next s
    obtain ⟨-, hleft', hops⟩ := exec_host_fields hu
    rw [execute_succ hu] at h
    have hcount : u.endOfCycle = u.withHost (n + 1) u.hostOps :=
      State.endOfCycle_of_succ_succ (hleft'.trans hleft)
    rw [repeat_step_succ (step_of_cycle hu), hcount, ← hops]
    have hrest := ih rfl (execute_withHost (n + 1) h (n + 1) u.hostOps)
    exact hrest

end Sys2Proof.Machine

open Sys2Proof Sys2Proof.Machine

/-- Settles O60: operations other than `step()` leave the count of cycles at 0, so that all of them are made
(`hostTurn_append`); a `step()` after them ends the turn, or with no cycles to run only ticks the timers. -/
theorem hostMakesItsOperationsInOrder : Obligations.HostMakesItsOperationsInOrder := by
  intro ops rest s hleft hops
  have hleft' : (ops.foldl State.serve s).cyclesLeft = 0 := (foldl_serve_cyclesLeft hops s).trans hleft
  have hper : (ops.foldl State.serve s).cyclesPerStep = s.cyclesPerStep := foldl_serve_cyclesPerStep s
  refine ⟨_, rfl, ?alone, fun hpos => ?busy, fun hzero => ?idle⟩
  case alone =>
    have hall := hostTurn_append hops hleft []
    rwa [List.append_nil] at hall
  case busy =>
    rw [hostTurn_append hops hleft, hostTurn_step_of_pos (by rwa [hper]), ← hper]
    rfl
  case idle =>
    refine ⟨(ops.foldl State.serve s).tickTimers, ?_, toNat_tick _, toNat_tick _, rfl⟩
    rw [hostTurn_append hops hleft, hostTurn_step_of_zero hleft' (hper.trans hzero)]

/-- Settles O50: the steps count down and the last hands the state over (`repeat_step_of_execute`); the state the host
begins with differs only in the host's fields, which no instruction reads or writes (`execute_withHost`). -/
theorem machineStepsMakeUpTheHostStep : Obligations.MachineStepsMakeUpTheHostStep := by
  constructor
  · intro n s hleft
    obtain ⟨t, ht⟩ := execute_next (n + 1) s
    obtain ⟨-, hops⟩ := execute_host_fields _ ht
    refine ⟨t, ht, ?_⟩
    rw [repeat_step_of_execute n hleft ht, ← hops]
    rfl
  · intro n s rest hleft hper
    obtain ⟨t, ht⟩ := execute_next (n + 1) s
    obtain ⟨hleft', -⟩ := execute_host_fields _ ht
    refine ⟨t.tickTimers, hostStep_of_execute (by rwa [hper]), ?_⟩
    rw [hostTurn_step_of_pos (by omega), hper, repeat_step_of_execute n rfl (execute_withHost _ ht _ _),
      ← hleft, ← hleft']
    rfl

/-- Settles O51: but for the last cycle of a `step()`, the end of a cycle only counts down (`State.endOfCycle_of_ne_one`),
and the instruction writes none of the host's fields (`exec_host_fields`). -/
theorem hostActsOnlyBetweenSteps : Obligations.HostActsOnlyBetweenSteps := by
  intro s hne
  obtain ⟨t, ht⟩ := cycle_next s
  obtain ⟨-, hleft, hops⟩ := exec_host_fields ht
  refine ⟨t, ht, ?_, hleft, hops⟩
  rw [step_of_cycle ht, State.endOfCycle_of_ne_one (by rwa [hleft]), hleft]

/-- Settles O8: a decoded fetch makes the cycle the instruction's `exec`, and the three cases are those of
`State.endOfCycle`. -/
theorem stepRunsTheDecodedInstruction : Obligations.StepRunsTheDecodedInstruction := by
  intro s t i hdecode hexec
  have hcycle : cycle s = .next t := by
    cases hdecode
    exact hexec
  rw [step_of_cycle hcycle]
  exact ⟨fun h => by rw [State.endOfCycle_of_zero h], fun n h => by rw [State.endOfCycle_of_succ_succ h],
    fun h => by rw [State.endOfCycle_of_one h]⟩

end

section
/-! PROOFS. The host's operations one by one (spec/40_cycle_and_host.md R138 to R142), and `reset()`
(spec/70_reset_and_hazards.md R360 to R362). -/

open Sys2Proof.Claim

namespace Sys2Proof.Machine

/-! ### Loading a program (R138) -/

theorem loadFits_some_iff (bytes : List Byte) : loadFits (some bytes) = true ↔ bytes.length ≤ 3584 := by
  simp [loadFits, loadBase, memSize]

theorem State.loadProgram_of_le {bytes : List Byte} (h : bytes.length ≤ 3584) (s : State) :
    s.loadProgram (some bytes) = s.memWriteBytes 0x200 bytes := if_pos ((loadFits_some_iff bytes).mpr h)

theorem State.loadProgram_of_gt {bytes : List Byte} (h : 3584 < bytes.length) (s : State) :
    s.loadProgram (some bytes) = s := if_neg (mt (loadFits_some_iff bytes).mp h.not_ge)

/-! ### Keys (R139) -/

theorem State.setKey_of_gt {k : Nat} (h : 15 < k) (s : State) (pressed : Bool) : s.setKey k pressed = s :=
  dif_neg (by omega)

theorem State.setKey_press {k : Nat} (h : k < 16) (s : State) :
    s.setKey k true = (s.setKeys (s.keys.set k true)).setLatch { pending := true, key := ⟨k, h⟩ } := dif_pos h

theorem State.setKey_release {k : Nat} (h : k < 16) (s : State) :
    s.setKey k false = s.setKeys (s.keys.set k false) := dif_pos h

theorem keys_set_getElem? (keys : Vector Bool 16) {k : Nat} (h : k < 16) (b : Bool) :
    (keys.set k b)[k]? = some b ∧ ∀ j, j ≠ k → (keys.set k b)[j]? = keys[j]? :=
  ⟨by simp [h], fun j hj => by rw [Vector.getElem?_set_ne _ hj.symm]⟩

/-! ### The view of the screen (R140) -/

section
variable {α : Type} (w : Nat) (f : Nat → Nat → α)

/-- Rows of `w` values, one row after the other, number `h * w` in all. -/
theorem length_rows (h : Nat) :
    ((List.range h).flatMap fun y => (List.range w).map fun x => f y x).length = h * w := by
  simp

/-- In rows of `w` values, value `x` of row `y` stands at `y * w + x`. -/
theorem getElem?_rows {h y x : Nat} (hy : y < h) (hx : x < w) :
    ((List.range h).flatMap fun y => (List.range w).map fun x => f y x)[y * w + x]? = some (f y x) := by
  induction h with
  | zero => exact absurd hy (Nat.not_lt_zero y)
  | succ h ih =>
    rw [List.range_succ, List.flatMap_append, List.flatMap_singleton]
    rcases Nat.lt_or_eq_of_le (Nat.le_of_lt_succ hy) with hlt | rfl
    · have hbefore : y * w + x < h * w := calc
        y * w + x < (y + 1) * w := by rw [Nat.succ_mul]; exact Nat.add_lt_add_left hx _
        _ ≤ h * w := Nat.mul_le_mul_right w hlt
      rw [List.getElem?_append_left (by rwa [length_rows]), ih hlt]
    · rw [List.getElem?_append_right (by rw [length_rows]; omega), length_rows, Nat.add_sub_cancel_left]
      simp [hx]

end

theorem State.getFramebuffer_getElem? {s : State} {y x : Nat} (h : s.inActive y x) :
    s.getFramebuffer[y * modeWidth s.mode + x]? = some (pixelByte (s.pixel y x)) := by
  obtain ⟨hy, hx⟩ := h
  exact getElem?_rows (modeWidth s.mode) (fun y x => pixelByte (s.fb.pixel y x)) hy hx

theorem State.length_getFramebuffer (s : State) :
    s.getFramebuffer.length = modeWidth s.mode * modeHeight s.mode :=
  (length_rows (modeWidth s.mode) (fun y x => pixelByte (s.fb.pixel y x)) (modeHeight s.mode)).trans
    (Nat.mul_comm _ _)

theorem State.mem_getFramebuffer {s : State} {b : Byte} (h : b ∈ s.getFramebuffer) :
    ∃ y x, s.inActive y x ∧ b = pixelByte (s.pixel y x) := by
  simp only [State.getFramebuffer, List.mem_flatMap, List.mem_map, List.mem_range] at h
  obtain ⟨y, hy, x, hx, rfl⟩ := h
  exact ⟨y, x, ⟨hy, hx⟩, rfl⟩

theorem State.getFramebuffer_of_clear {s : State} (h : ∀ y x, s.inActive y x → s.pixel y x = false) :
    s.getFramebuffer = List.replicate (modeWidth s.mode * modeHeight s.mode) 0 := by
  refine List.eq_replicate_iff.mpr ⟨s.length_getFramebuffer, fun b hb => ?_⟩
  obtain ⟨y, x, hactive, rfl⟩ := State.mem_getFramebuffer hb
  rw [h y x hactive]
  rfl

/-! ### Reset (R360, R361) -/

theorem resetByte_smallFont {k : Nat} (h : k < 80) : resetByte (smallFontBase + k) = Config.smallFont[k] := by
  obtain ⟨hsmall, -, -⟩ := fontBases_bounds
  rw [resetByte, if_pos (by omega), if_pos (by omega), Nat.add_sub_cancel_left, smallFontByte]
  simp [h]

theorem resetByte_bigFont {k : Nat} (h : k < 100) : resetByte (bigFontBase + k) = Config.bigFont[k] := by
  obtain ⟨-, hbig, hdisjoint⟩ := fontBases_bounds
  rw [resetByte, if_pos (by omega), if_neg (by omega), if_pos (by omega), Nat.add_sub_cancel_left, bigFontByte]
  simp [h]

theorem resetByte_elsewhere {a : Nat} (hsmall : ¬(smallFontBase ≤ a ∧ a < smallFontBase + 80))
    (hbig : ¬(bigFontBase ≤ a ∧ a < bigFontBase + 100)) : resetByte a = 0 := by
  rw [resetByte, if_neg hsmall, if_neg hbig, ite_self]

theorem State.memRead_hostReset (s : State) {a : Nat} (h : a < 4096) : s.hostReset.memRead a = resetByte a :=
  congrArg resetByte (Nat.mod_eq_of_lt h)

theorem State.pixel_hostReset (s : State) (y x : Nat) : s.hostReset.pixel y x = false := by
  change Framebuffer.pixel (Vector.replicate 64 0) y x = false
  by_cases hy : y < 64
  · simp [Framebuffer.pixel, Framebuffer.row, hy]
  · exact Framebuffer.pixel_outside _ fun h => hy h.1

end Sys2Proof.Machine

open Sys2Proof Sys2Proof.Machine

/-- Settles O52: the size decides (`loadFits_some_iff`), and the bytes are written and read back one by one. -/
theorem loadProgramCopiesOrFails : Obligations.LoadProgramCopiesOrFails := by
  intro s bytes
  refine ⟨⟨rfl, rfl⟩, fun hgt => ⟨?tooLong, State.loadProgram_of_gt hgt s⟩,
    fun hle => ⟨?fits, _, State.loadProgram_of_le hle s, ?inside, ?outside, rfl⟩⟩
  case tooLong => exact if_neg (mt (loadFits_some_iff bytes).mp hgt.not_ge)
  case fits => exact if_pos ((loadFits_some_iff bytes).mpr hle)
  case inside =>
    exact fun k hk => Memory.read_writeBytes_inside bytes s.mem 0x200 k hk (by omega)
  case outside =>
    intro a ha hout
    refine Memory.read_writeBytes_outside bytes s.mem 0x200 a fun k hk => ?_
    simp only [wrapAddr, memSize]
    omega

/-- Settles O53: a key above 15 is refused (`State.setKey_of_gt`), and a press and a release write the key's own entry
alone (`keys_set_getElem?`), the press the latch besides. -/
theorem setKeyWritesKeyAndLatch : Obligations.SetKeyWritesKeyAndLatch := by
  intro s k pressed
  refine ⟨fun h => State.setKey_of_gt h s pressed, fun h => ?_⟩
  have hk : k < 16 := by omega
  obtain ⟨hset, hother⟩ := keys_set_getElem? s.keys hk pressed
  cases pressed with
  | true => exact ⟨_, State.setKey_press hk s, hset, hother, ⟨rfl, rfl⟩, rfl⟩
  | false => exact ⟨_, State.setKey_release hk s, hset, hother, rfl, rfl⟩

/-- Settles O54: the buffer is rows of one width, one after the other (`State.length_getFramebuffer`,
`State.getFramebuffer_getElem?`); the other views are fields of the state. -/
theorem viewsReturnWithoutChange : Obligations.ViewsReturnWithoutChange :=
  fun s => ⟨rfl, rfl, rfl, rfl, rfl, s.getFramebuffer, rfl, s.length_getFramebuffer,
    fun _ _ h => State.getFramebuffer_getElem? h⟩

/-- Settles O55: `CLS` clears every pixel of the active region and keeps the mode (`clearZeroesTheActiveRegion`), and
the buffer holds no other pixel (`State.getFramebuffer_of_clear`). -/
theorem clearedScreenReadsAllZero : Obligations.ClearedScreenReadsAllZero := by
  intro s
  obtain ⟨t, ht, hclear, -, -, -, -, hmode, -⟩ := clearZeroesTheActiveRegion.2 s
  refine ⟨t, ht, congrArg HostReply.framebuffer ?_⟩
  rw [← hmode]
  refine State.getFramebuffer_of_clear fun y x h => hclear y x ?_
  rwa [State.inActive, hmode] at h

/-- Settles O56: reset memory lists nothing, so that it reads as its reset contents, the fonts at their bases
(`resetByte_smallFont`, `resetByte_bigFont`) and 0 elsewhere (`resetByte_elsewhere`). -/
theorem resetSetsEveryElement : Obligations.ResetSetsEveryElement := by
  intro s
  have hbounds := fontBases_bounds
  obtain ⟨hsmall, hbig, -⟩ := fontBases_bounds
  refine ⟨s.hostReset, rfl, fun k => ?regs, rfl, rfl, fun k hk => ?stack, rfl, rfl, rfl, rfl, s.pixel_hostReset,
    fun k hk => ?keys, rfl, rfl, rfl, fun k hk => ?small, fun k hk => ?big, fun a ha hs hb => ?other, hbounds⟩
  case regs => simp [State.reg, State.hostReset, State.reset]
  case stack => simp [State.hostReset, State.reset, hk]
  case keys => simp [State.hostReset, State.reset, hk]
  case small => rw [s.memRead_hostReset (by omega), resetByte_smallFont hk]
  case big => rw [s.memRead_hostReset (by omega), resetByte_bigFont hk]
  case other => rw [s.memRead_hostReset ha, resetByte_elsewhere hs hb]

/-- Settles O57: `reset()` is written as the reset state with the model's own fields kept, and the `PC` is at 0x200
there. -/
theorem powerOnIsTheStateOfReset : Obligations.PowerOnIsTheStateOfReset := by
  refine ⟨fun s => ?sameState, ?mode, ?firstFetch⟩
  case sameState => rfl
  case mode => rfl
  case firstFetch => rfl

end

section
/-! PROOFS. What an instruction does not read (spec/10_state.md R28, R29, R33 to R35). -/

open Sys2Proof.Claim

namespace Sys2Proof.Machine

/-! ### Dead stack entries (R28) -/

/-- A state with other stack entries and the same depth. -/
def State.withStack (s : State) (stack : Vector Addr Config.stackDepth) : State := { s with stack := stack }

theorem sameButDeadStack_withStack {s t : State} {stack : Vector Addr Config.stackDepth} (hsame : SameStack s t)
    (hlive : ∀ k, k < s.sp.val → stack[k]? = s.stack[k]?) : SameButDeadStack t (t.withStack stack) := by
  obtain ⟨hstack, hsp⟩ := hsame
  refine ⟨rfl, ?_⟩
  rw [hsp, hstack]
  exact hlive

theorem exec_withStack {i : Instr} (hret : i ≠ .ret) (hcall : ∀ nnn, i ≠ .call nnn) (s : State)
    (stack : Vector Addr Config.stackDepth) :
    Answers i s fun t => exec i (s.withStack stack) = .next (t.withStack stack) := by
  cases i
  case ret => exact absurd rfl hret
  case call nnn => exact absurd rfl (hcall nnn)
  case ldVxK x =>
    exact answers_ldVxK (fun h => exec_ldVxK_of_pending (s := s.withStack stack) h x)
      (fun h => exec_ldVxK_of_not_pending (s := s.withStack stack) h x)
  all_goals exact ⟨_, rfl, rfl⟩

section
variable {s : State} {stack : Vector Addr Config.stackDepth}
  (hlive : ∀ k, k < s.sp.val → stack[k]? = s.stack[k]?)
include hlive

/-- The entry `RET` pops is live, and the entries below it stay so. -/
theorem exec_ret_withStack : Answers .ret s fun t =>
    exec .ret (s.withStack stack) = .next (t.withStack stack) ∧ SameButDeadStack t (t.withStack stack) := by
  refine answers_ret (fun h => ⟨?_, rfl, fun k hk => ?_⟩) (fun h => ⟨?_, rfl, hlive⟩)
  · rw [exec_ret_of_pos (s := s.withStack stack) h]
    change Host.Outcome.next ((s.withStack stack).pop.setPc (stack[s.sp.val - 1]?.getD 0 + 2)) = _
    rw [hlive (s.sp.val - 1) (by omega)]
    rfl
  · exact hlive k (Nat.lt_of_lt_of_le hk (Nat.sub_le _ _))
  · exact exec_ret_of_zero (s := s.withStack stack) h

/-- `CALL` writes the entry at `SP`, which becomes live, in both stacks. -/
theorem exec_call_withStack (nnn : Addr) : Answers (.call nnn) s fun t =>
    ∃ t', exec (.call nnn) (s.withStack stack) = .next t' ∧ SameButDeadStack t t' := by
  refine answers_call (fun h => ⟨_, exec_call_of_room (s := s.withStack stack) h nnn, ?_, fun k hk => ?_⟩)
    (fun h => ⟨_, exec_call_of_full (s := s.withStack stack) h nnn, rfl, hlive⟩)
  · rw [State.push_eq_of_lt (s := s.withStack stack) h, State.push_eq_of_lt h]
    rfl
  · change k < (s.push s.pc).sp.val at hk
    rw [(State.push_of_lt h s.pc).2] at hk
    change ((s.withStack stack).push s.pc).stack[k]? = (s.push s.pc).stack[k]?
    rw [State.push_stack_getElem? (s := s.withStack stack) h, State.push_stack_getElem? h]
    change (if k = s.sp.val then some s.pc else stack[k]?) = _
    split
    · rfl
    · exact hlive k (by omega)

theorem exec_sameButDeadStack (i : Instr) : Answers i s fun t =>
    ∃ t', exec i (s.withStack stack) = .next t' ∧ SameButDeadStack t t' := by
  by_cases hret : i = .ret
  · subst hret
    obtain ⟨t, ht, hrun, hsame⟩ := exec_ret_withStack hlive
    exact ⟨t, ht, _, hrun, hsame⟩
  by_cases hcall : ∃ nnn, i = .call nnn
  · obtain ⟨nnn, rfl⟩ := hcall
    exact exec_call_withStack hlive nnn
  obtain ⟨t, ht, hrun⟩ := exec_withStack hret (fun nnn h => hcall ⟨nnn, h⟩) s stack
  obtain ⟨-, hstack, -⟩ := of_answers (stateIsWrittenOnlyByItsInstructions i s) ht
  have hkept : SameStack s t := hstack.resolve_right fun h => h.elim hret hcall
  exact ⟨t, ht, _, hrun, sameButDeadStack_withStack hkept hlive⟩

/-- `reset()` gives both states the same stack, and no other operation of the host touches it. -/
theorem serve_sameButDeadStack (op : HostOp) : SameButDeadStack (s.serve op) ((s.withStack stack).serve op) := by
  cases op
  case reset => exact ⟨rfl, fun _ _ => rfl⟩
  case loadProgram image =>
    cases image with
    | none => exact ⟨rfl, hlive⟩
    | some bytes =>
      simp only [State.serve, State.loadProgram]
      split
      · exact ⟨rfl, hlive⟩
      · exact ⟨rfl, hlive⟩
  case setKey k pressed =>
    simp only [State.serve, State.setKey]
    split
    · split
      · exact ⟨rfl, hlive⟩
      · exact ⟨rfl, hlive⟩
    · exact ⟨rfl, hlive⟩
  case step =>
    simp only [State.serve, State.beginStep]
    change SameButDeadStack _ (if s.cyclesPerStep = 0 then _ else _)
    split
    · exact ⟨rfl, hlive⟩
    · exact ⟨rfl, hlive⟩
  all_goals exact ⟨rfl, hlive⟩

end

theorem reply_withStack (s : State) (stack : Vector Addr Config.stackDepth) (op : HostOp) :
    (s.withStack stack).reply op = s.reply op := by
  cases op <;> rfl

/-! ### Timers, counter, keys and latch (R29, R33 to R35) -/

/-- A state with another sound timer, counter, keys and latch. -/
def State.withHidden (s : State) (st : Byte) (count : BitVec 32) (keys : Vector Bool 16) (latch : KeyLatch) :
    State :=
  { s with st := st, unknownCount := count, keys := keys, latch := latch }

/-- Two answers to an instruction that differ in what it does not read, each part but the keys at most where the
instruction writes that part (R29, R33 to R35). -/
def SameButHidden (i : Instr) (st : Byte) (count : BitVec 32) (keys : Vector Bool 16) (latch : KeyLatch)
    (t t' : State) : Prop :=
  t' = t.withHidden t'.st t'.unknownCount keys t'.latch ∧
    (t'.st = st ∨ ∃ x, i = .ldStVx x) ∧ (t'.unknownCount = count ∨ ∃ w, i = .unrecognized w) ∧
    (t'.latch = latch ∨ ∃ x, i = .ldVxK x)

section
variable (st : Byte) (count : BitVec 32) (keys : Vector Bool 16) (latch : KeyLatch) (s : State)

theorem sameButHidden_withHidden (i : Instr) (t : State) :
    SameButHidden i st count keys latch t (t.withHidden st count keys latch) := ⟨rfl, .inl rfl, .inl rfl, .inl rfl⟩

theorem exec_ret_withHidden : Answers .ret s fun t =>
    exec .ret (s.withHidden st count keys latch) = .next (t.withHidden st count keys latch) :=
  answers_ret (exec_ret_of_pos (s := s.withHidden st count keys latch))
    (exec_ret_of_zero (s := s.withHidden st count keys latch))

theorem exec_call_withHidden (nnn : Addr) : Answers (.call nnn) s fun t =>
    exec (.call nnn) (s.withHidden st count keys latch) = .next (t.withHidden st count keys latch) := by
  refine answers_call (fun h => ?_) (fun h => exec_call_of_full (s := s.withHidden st count keys latch) h nnn)
  rw [exec_call_of_room (s := s.withHidden st count keys latch) h,
    State.push_eq_of_lt (s := s.withHidden st count keys latch) h, State.push_eq_of_lt h]
  rfl

theorem exec_ldVxK_sameButHidden (x : RegIdx) : Answers (.ldVxK x) s fun t =>
    ∃ t', exec (.ldVxK x) (s.withHidden st count keys s.latch) = .next t' ∧
      SameButHidden (.ldVxK x) st count keys s.latch t t' :=
  answers_ldVxK
    (fun h => ⟨_, exec_ldVxK_of_pending (s := s.withHidden st count keys s.latch) h x, rfl, .inl rfl, .inl rfl,
      .inr ⟨x, rfl⟩⟩)
    (fun h => ⟨_, exec_ldVxK_of_not_pending (s := s.withHidden st count keys s.latch) h x,
      sameButHidden_withHidden st count keys s.latch _ s⟩)

end

theorem exec_sameButHidden (i : Instr) (s : State) (st : Byte) (count : BitVec 32) {keys : Vector Bool 16}
    {latch : KeyLatch} (hkeys : ∀ x, i ≠ .skp x ∧ i ≠ .sknp x ∨ keys = s.keys)
    (hlatch : ∀ x, i ≠ .ldVxK x ∨ latch = s.latch) : Answers i s fun t =>
      ∃ t', exec i (s.withHidden st count keys latch) = .next t' ∧ SameButHidden i st count keys latch t t' := by
  cases i
  case ret =>
    obtain ⟨t, ht, hrun⟩ := exec_ret_withHidden st count keys latch s
    exact ⟨t, ht, _, hrun, sameButHidden_withHidden st count keys latch _ t⟩
  case call nnn =>
    obtain ⟨t, ht, hrun⟩ := exec_call_withHidden st count keys latch s nnn
    exact ⟨t, ht, _, hrun, sameButHidden_withHidden st count keys latch _ t⟩
  case skp x =>
    obtain rfl : keys = s.keys := (hkeys x).resolve_left fun h => h.1 rfl
    exact ⟨_, rfl, _, rfl, sameButHidden_withHidden st count s.keys latch _ _⟩
  case sknp x =>
    obtain rfl : keys = s.keys := (hkeys x).resolve_left fun h => h.2 rfl
    exact ⟨_, rfl, _, rfl, sameButHidden_withHidden st count s.keys latch _ _⟩
  case ldVxK x =>
    obtain rfl : latch = s.latch := (hlatch x).resolve_left fun h => h rfl
    exact exec_ldVxK_sameButHidden st count keys s x
  case ldStVx x => exact ⟨_, rfl, _, rfl, rfl, .inr ⟨x, rfl⟩, .inl rfl, .inl rfl⟩
  case unrecognized w => exact ⟨_, rfl, _, rfl, rfl, .inl rfl, .inr ⟨w, rfl⟩, .inl rfl⟩
  all_goals exact ⟨_, rfl, _, rfl, sameButHidden_withHidden st count keys latch _ _⟩

end Sys2Proof.Machine

open Sys2Proof Sys2Proof.Machine

/-- Settles O18: an instruction pops or pushes at `SP` and reads no entry above (`exec_sameButDeadStack`), and a host
operation reads no entry at all. -/
theorem deadStackEntriesAreNotObservable : Obligations.DeadStackEntriesAreNotObservable := by
  intro s s' ⟨hs', hlive⟩
  rw [hs']
  refine ⟨fun i => ?_, fun op => ⟨reply_withStack s s'.stack op, serve_sameButDeadStack hlive op⟩⟩
  obtain ⟨t, ht, t', ht', hsame⟩ := exec_sameButDeadStack hlive i
  exact ⟨t, t', ht, ht', hsame⟩

/-- Settles O48: the key skips and the key wait read the part they are given equal, and every other meaning is the same
expression of what is not hidden (`exec_sameButHidden`). -/
theorem hiddenStateDoesNotReachOtherInstructions : Obligations.HiddenStateDoesNotReachOtherInstructions := by
  intro i s st count keys latch hkeys hlatch
  obtain ⟨t, ht, t', ht', hsame⟩ := exec_sameButHidden i s st count hkeys hlatch
  exact ⟨t, t', ht, ht', hsame⟩

end

section
/-! PROOFS. Calls, returns and jumps (spec/41_control_flow.md R160, R162, R167, R168), and the parity of the `PC`
(spec/10_state.md R26). -/

open Sys2Proof.Claim

namespace Sys2Proof.Machine

theorem onlyStackPc_of_onlyPc {s t : State} (h : OnlyPc s t) : OnlyStackPc s t := by
  obtain ⟨hregs, hi, hmem, -, hrest⟩ := h
  exact ⟨hregs, hi, hmem, hrest⟩

theorem onlyStackPc_refl (s : State) : OnlyStackPc s s := onlyStackPc_of_onlyPc (onlyPc_setPc s s.pc)

theorem onlyStackPc_trans {s t u : State} (h : OnlyStackPc s t) (h' : OnlyStackPc t u) : OnlyStackPc s u := by
  obtain ⟨hregs, hi, hmem, ⟨hdt, hst⟩, ⟨hmode, hpixel⟩, ⟨hkeys, hlatch⟩, hcount, hdraws, hper, hleft, hops⟩ := h
  obtain ⟨hregs', hi', hmem', ⟨hdt', hst'⟩, ⟨hmode', hpixel'⟩, ⟨hkeys', hlatch'⟩, hcount', hdraws', hper', hleft',
    hops'⟩ := h'
  exact ⟨fun k => (hregs' k).trans (hregs k), hi'.trans hi, fun a => (hmem' a).trans (hmem a),
    ⟨hdt'.trans hdt, hst'.trans hst⟩, ⟨hmode'.trans hmode, fun y x => (hpixel' y x).trans (hpixel y x)⟩,
    ⟨hkeys'.trans hkeys, hlatch'.trans hlatch⟩, hcount'.trans hcount, hdraws'.trans hdraws, hper'.trans hper,
    hleft'.trans hleft, hops'.trans hops⟩

theorem onlyStackPc_setPc {s t : State} (h : OnlyStackPc s t) (a : Addr) : OnlyStackPc s (t.setPc a) := h

theorem onlyStackPc_pop {s t : State} (h : OnlyStackPc s t) : OnlyStackPc s t.pop := h

theorem onlyStackPc_push {s t : State} (h : OnlyStackPc s t) (a : Addr) : OnlyStackPc s (t.push a) := by
  unfold State.push
  split
  · exact h
  · exact h

/-! ### The parity of the `PC` (R26) -/

/-- A live return address is even. -/
theorem State.EvenPc.top {s : State} (h : s.EvenPc) (hsp : 0 < s.sp.val) :
    (s.stack[s.sp.val - 1]?.getD 0).toNat % 2 = 0 := by
  obtain ⟨-, hstack⟩ := h
  have hlt : s.sp.val - 1 < 16 := by have := s.sp_le; omega
  exact hstack (s.sp.val - 1) (by omega) _ (by simp [hlt])

/-- R131's table keeps an even program counter even, but for the targets of jumps and calls. -/
theorem pcNext_even {i : Instr} {s : State} (h : s.EvenPc)
    (hjp : ∀ nnn, i = .jp nnn ∨ i = .call nnn → nnn.toNat % 2 = 0)
    (hv0 : ∀ nnn, i = .jpV0 nnn → ((s.reg 0).toNat + nnn.toNat) % 2 = 0) : pcNext i s % 2 = 0 := by
  obtain ⟨hpc, -⟩ := id h
  cases i
  case jp nnn => exact hjp nnn (.inl rfl)
  case jpV0 nnn => exact hv0 nnn rfl
  case call nnn =>
    have htarget := hjp nnn (.inr rfl)
    simp only [pcNext]
    split <;> omega
  case ret =>
    simp only [pcNext]
    split
    case isTrue hsp =>
      have htop := h.top hsp
      omega
    case isFalse => omega
  case seImm | sneImm | seReg | sneReg | skp | sknp | ldVxK =>
    simp only [pcNext]
    split <;> omega
  all_goals
    simp only [pcNext]
    omega

end Sys2Proof.Machine

open Sys2Proof Sys2Proof.Machine

/-- Settles O12: the two branches of `RET` (`answers_ret`), neither of which writes an entry of the stack. -/
theorem retReturnsAfterTheCall : Obligations.RetReturnsAfterTheCall := by
  refine ⟨encodedBy_of_row0 ?row, fun s => answers_ret (fun h => ?pop) (fun h => ?empty)⟩
  case row => simp [opcodeRows0]
  case pop =>
    rw [if_pos h]
    exact ⟨⟨rfl, pc_add_two _⟩, rfl, onlyStackPc_setPc (onlyStackPc_pop (onlyStackPc_refl s)) _⟩
  case empty =>
    rw [if_neg h.not_gt]
    exact ⟨⟨rfl, pcPlus_advance rfl⟩, rfl, onlyStackPc_setPc (onlyStackPc_refl s) _⟩

/-- Settles O13: the target is computed wide enough and kept to 12 bits (`State.toNat_offsetTarget`). -/
theorem jumpWithOffsetWraps : Obligations.JumpWithOffsetWraps := by
  refine ⟨encodedBy_of_plain ?row, fun s nnn => ⟨_, rfl, s.toNat_offsetTarget nnn, onlyPc_setPc s _⟩⟩
  simp [opcodeRowsPlain]

/-- Settles O14: the two branches of `CALL` (`answers_call`), and the entries of the stack after a push
(`State.push_stack_getElem?`). -/
theorem callPushesItsOwnAddress : Obligations.CallPushesItsOwnAddress := by
  refine ⟨encodedBy_of_plain ?row, fun s nnn => answers_call (fun h => ?push) (fun h => ?full)⟩
  case row => simp [opcodeRowsPlain]
  case push =>
    rw [if_pos h]
    refine ⟨⟨(State.push_of_lt h s.pc).2, ?_, fun k hk => ?_, rfl⟩,
      onlyStackPc_setPc (onlyStackPc_push (onlyStackPc_refl s) _) _⟩
    · exact (State.push_stack_getElem? h s.pc _).trans (if_pos rfl)
    · exact (State.push_stack_getElem? h s.pc k).trans (if_neg hk)
  case full =>
    rw [if_neg (by omega)]
    exact ⟨⟨rfl, rfl, pcPlus_advance rfl⟩, onlyStackPc_setPc (onlyStackPc_refl s) _⟩

/-- Settles O17: what `CALL` leaves at `SP` (O14) is what `RET` pops (O12), and neither changes another live entry. -/
theorem callThenReturnComesBack : Obligations.CallThenReturnComesBack := by
  intro s nnn h
  obtain ⟨t, ht, hcall, hframe⟩ := callPushesItsOwnAddress.2 s nnn
  rw [if_pos h] at hcall
  obtain ⟨hsp, htop, hbelow, -⟩ := hcall
  obtain ⟨u, hu, hret, hstack, hframe'⟩ := retReturnsAfterTheCall.2 t
  rw [if_pos (by omega), hsp, Nat.add_sub_cancel, htop] at hret
  obtain ⟨hsp', hpc⟩ := hret
  refine ⟨t, u, ht, hu, hpc, Fin.ext hsp', fun k hk => ?_, onlyStackPc_trans hframe hframe'⟩
  rw [hstack, hbelow k hk.ne]

namespace Sys2Proof.Machine

/-- The return addresses that are live after an instruction were live before it, but for the address of a `CALL`. -/
theorem exec_stack_even {i : Instr} {s t : State} (hexec : exec i s = .next t) (h : s.EvenPc) :
    ∀ k, k < t.sp.val → ∀ a, t.stack[k]? = some a → a.toNat % 2 = 0 := by
  obtain ⟨hpc, hlive⟩ := h
  obtain ⟨-, hstack, -⟩ := of_answers (stateIsWrittenOnlyByItsInstructions i s) hexec
  rcases hstack with ⟨hstack, hsp⟩ | rfl | ⟨nnn, rfl⟩
  · rw [hstack, hsp]
    exact hlive
  · obtain ⟨hret, hstack, -⟩ := of_answers (retReturnsAfterTheCall.2 s) hexec
    have hle : t.sp.val ≤ s.sp.val := by
      split at hret
      · omega
      · exact le_of_eq (congrArg Fin.val hret.1)
    rw [hstack]
    exact fun k hk => hlive k (hk.trans_le hle)
  · obtain ⟨hcall, -⟩ := of_answers (callPushesItsOwnAddress.2 s nnn) hexec
    split at hcall
    · obtain ⟨hsp, htop, hbelow, -⟩ := hcall
      intro k hk a ha
      by_cases hkey : k = s.sp.val
      · subst hkey
        cases htop.symm.trans ha
        exact hpc
      · exact hlive k (by omega) a ((hbelow k hkey).symm.trans ha)
    · obtain ⟨hstack, hsp, -⟩ := hcall
      rw [hstack, hsp]
      exact hlive

end Sys2Proof.Machine

/-- Settles O19: R131's table keeps the `PC` even (`pcNext_even`), and the only address that becomes live is that of a
`CALL` (`exec_stack_even`). -/
theorem pcStaysEvenWithEvenTargets : Obligations.PcStaysEvenWithEvenTargets := by
  intro i s h hjp hv0
  obtain ⟨t, ht, hpc⟩ := nextPcFollowsTheTable i s
  have heven := pcNext_even h hjp hv0
  exact ⟨t, ht, by omega, exec_stack_even ht h⟩

/-- Settles O11: the meaning writes the counter and the `PC`, and a word of the list is decoded as itself
(`decodeWord_eq_unrecognized_iff`). -/
theorem unrecognizedWordIsCountedAndSkipped : Obligations.UnrecognizedWordIsCountedAndSkipped := by
  refine ⟨fun w s _ => ⟨_, rfl, ?count, pcPlus_advance rfl, rfl⟩, fun s h => ?fetched⟩
  case count => exact BitVec.toNat_add s.unknownCount 1
  case fetched =>
    have hdecode := (decodeWord_eq_unrecognized_iff s.fetchWord).mpr h
    refine ⟨by rw [cycle, hdecode], ?_⟩
    simp only [State.diagnosticEvent, hdecode]

end

section
/-! PROOFS. Destinations and flags over all instructions (spec/10_state.md R21, R22, spec/42_arithmetic.md R201, R202). -/

open Sys2Proof.Claim

namespace Sys2Proof.Machine

/-! ### `ADD I, Vx` and `DRW`, register by register -/

theorem addIWith_reg (quirk : Bool) (x : RegIdx) (s : State) (k : RegIdx) :
    (addIWith quirk x s).reg k = addIRegs quirk s x k := by simp [addIWith]

theorem addIWith_reg_of_ne {k : RegIdx} (h : k ≠ 15) (quirk : Bool) (x : RegIdx) (s : State) :
    (addIWith quirk x s).reg k = s.reg k := by
  simp [addIWith_reg, addIRegs, h]

theorem addIWith_true_flag (x : RegIdx) (s : State) :
    (addIWith true x s).reg 15 = flagByte (addressOverflow s.i (s.reg x)) := by
  simp [addIWith_reg, addIRegs]

theorem addIWith_false_flag (x : RegIdx) (s : State) : (addIWith false x s).reg 15 = s.reg 15 := by
  simp [addIWith_reg, addIRegs]

theorem toNat_flagByte_addressOverflow (i : Word) (a : Byte) :
    (flagByte (addressOverflow i a)).toNat = bit (i.toNat + a.toNat > 0xFFF) :=
  toNat_flagByte_decide _

/-- The pixels a `DRW` toggles, in the order of its loop. -/
def State.drawnPixels (e : DrawEdge) (d : Dxy0Standard) (x y : RegIdx) (n : BitVec 4) (s : State) :
    List (Nat × Nat) :=
  s.spritePixels e (spriteShape d n s.mode).1 (spriteShape d n s.mode).2 (s.reg x).toNat (s.reg y).toNat

section
variable (e : DrawEdge) (d : Dxy0Standard) (x y : RegIdx) (n : BitVec 4) (s : State)

theorem drwWith_eq : drwWith e d x y n s =
    ((s.setFb (s.fb.drawPixels (s.drawnPixels e d x y n)).1).setFlag
      (s.fb.drawPixels (s.drawnPixels e d x y n)).2).advance := rfl

theorem drwWith_flag : (drwWith e d x y n s).reg 15 = flagByte (s.fb.drawPixels (s.drawnPixels e d x y n)).2 := by
  simp [drwWith_eq]

theorem drwWith_reg_of_ne {k : RegIdx} (h : k ≠ 15) : (drwWith e d x y n s).reg k = s.reg k := by
  simp [drwWith_eq, h]

end

/-! ### Destinations and flags (R21, R22) -/

/-- What R21 and R22 say of the registers before and after an instruction. -/
def WritesDestinations (i : Instr) (s t : State) : Prop :=
  (∀ k, t.reg k = s.reg k ∨ writesReg i k) ∧ (setsFlag i = true → t.reg 15 = 0 ∨ t.reg 15 = 1)

section
variable {i : Instr} {s t : State} {x : RegIdx} {r : Byte} {b : Bool}

theorem writesDestinations_of_sameRegs (h : SameRegs s t) (hflag : setsFlag i = false) :
    WritesDestinations i s t := by
  refine ⟨fun k => .inl (h k), fun hset => ?_⟩
  rw [hflag] at hset
  cases hset

theorem writesDestinations_of_oneReg (h : ∀ k, k ≠ x → t.reg k = s.reg k) (hx : writesReg i x)
    (hflag : setsFlag i = false) : WritesDestinations i s t := by
  refine ⟨fun k => ?_, fun hset => ?_⟩
  · by_cases hk : k = x
    · exact .inr (hk ▸ hx)
    · exact .inl (h k hk)
  · rw [hflag] at hset
    cases hset

theorem writesDestinations_of_flag (h : ∀ k, k ≠ x → k ≠ 15 → t.reg k = s.reg k) (hx : writesReg i x)
    (hvF : writesReg i 15) (hflag : t.reg 15 = flagByte b) : WritesDestinations i s t := by
  refine ⟨fun k => ?_, fun _ => ?_⟩
  · by_cases hk : k = x
    · exact .inr (hk ▸ hx)
    by_cases hkF : k = 15
    · exact .inr (hkF ▸ hvF)
    · exact .inl (h k hk hkF)
  · rw [hflag]
    exact flagByte_zero_or_one b

theorem writesDestinations_setResultAndFlag (hx : writesReg i x) (hvF : writesReg i 15) :
    WritesDestinations i s (s.setResultAndFlag x r b).advance :=
  writesDestinations_of_flag (b := b) (fun k hk hkF => by simp [hk, hkF]) hx hvF (by simp)

theorem writesDestinations_setReg (hx : writesReg i x) (hflag : setsFlag i = false) :
    WritesDestinations i s (s.setReg x r).advance :=
  writesDestinations_of_oneReg (fun k hk => by simp [hk]) hx hflag

end

theorem writesDestinations_addI (x : RegIdx) (s : State) :
    WritesDestinations (.addI x) s (addIWith quirkFx1eVf x s) := by
  cases hquirk : quirkFx1eVf with
  | true =>
    exact writesDestinations_of_flag (fun k _ hk => addIWith_reg_of_ne hk true x s) ⟨rfl, hquirk⟩ ⟨rfl, hquirk⟩
      (addIWith_true_flag x s)
  | false =>
    refine writesDestinations_of_sameRegs (fun k => ?_) hquirk
    simp [addIWith_reg, addIRegs]

theorem writesDestinations_ldRegs (x : RegIdx) (s : State) :
    Answers (.ldRegs x) s (WritesDestinations (.ldRegs x) s) := by
  refine ⟨_, rfl, fun k => ?_, nofun⟩
  by_cases hk : k ≤ x
  · exact .inr hk
  · exact .inl (by simp [hk])

end Sys2Proof.Machine

open Sys2Proof Sys2Proof.Machine

/-- Settles O27: an instruction writes no register, one register, or one register and `VF`
(`writesDestinations_of_sameRegs`, `writesDestinations_of_oneReg`, `writesDestinations_of_flag`), but for
`LD Vx, [I]`, whose destinations are a range. -/
theorem onlyDestinationsAndFlagsAreWritten : Obligations.OnlyDestinationsAndFlagsAreWritten := by
  intro i s
  change Answers i s (WritesDestinations i s)
  cases i
  case ldImm | addImm | ldReg | orReg | andReg | xorReg | ldVxDt =>
    exact ⟨_, rfl, writesDestinations_setReg rfl rfl⟩
  case addReg | sub | shr | subn | shl =>
    exact ⟨_, rfl, writesDestinations_setResultAndFlag (.inl rfl) (.inr rfl)⟩
  case rnd x nn => exact ⟨_, rfl, writesDestinations_of_oneReg (fun k hk => by simp [hk]) rfl rfl⟩
  case ldRegs x => exact writesDestinations_ldRegs x s
  case addI x => exact ⟨_, rfl, writesDestinations_addI x s⟩
  case drw x y n =>
    exact ⟨_, rfl, writesDestinations_of_flag (fun k _ hk => drwWith_reg_of_ne _ _ x y n s hk) rfl rfl
      (drwWith_flag _ _ x y n s)⟩
  case ret =>
    exact answers_ret (fun _ => writesDestinations_of_sameRegs (fun _ => rfl) rfl)
      (fun _ => writesDestinations_of_sameRegs (fun _ => rfl) rfl)
  case call nnn =>
    exact answers_call (fun _ => writesDestinations_of_sameRegs (s.reg_push s.pc) rfl)
      (fun _ => writesDestinations_of_sameRegs (fun _ => rfl) rfl)
  case ldVxK x =>
    exact answers_ldVxK (fun _ => writesDestinations_of_oneReg (fun k hk => by simp [hk]) rfl rfl)
      (fun _ => writesDestinations_of_sameRegs (fun _ => rfl) rfl)
  all_goals exact ⟨_, rfl, writesDestinations_of_sameRegs (fun _ => by simp) rfl⟩

/-- Settles O25, from what the statements about these instructions say of `VF`. -/
theorem flagIsWrittenLast : Obligations.FlagIsWrittenLast := by
  intro s y
  obtain ⟨tadd, hadd, ⟨-, hcarry, -⟩, -⟩ := addGivesSumAndCarry.2 s 15 y
  obtain ⟨⟨tsub, hsub, ⟨-, hborrow, -⟩, -⟩, tsubn, hsubn, ⟨-, hborrow', -⟩, -⟩ :=
    subtractionsGiveDifferenceAndNotBorrow.2.2 s 15 y
  obtain ⟨⟨tshr, hshr, ⟨-, hlow, -⟩, -⟩, tshl, hshl, ⟨-, htop, -⟩, -⟩ := shiftsGiveTheBitShiftedOut.2.2 s 15
  exact ⟨⟨tadd, hadd, hcarry⟩, ⟨tsub, hsub, hborrow⟩, ⟨tshr, hshr, hlow⟩, ⟨tsubn, hsubn, hborrow'⟩,
    ⟨tshl, hshl, htop⟩, by rw [addIWith_true_flag, toNat_flagByte_addressOverflow]⟩

/-- Settles O26: the byte is the oracle's at this number of the draw, and the mask's two extremes are
`BitVec.and_zero` and `BitVec.and_allOnes`. -/
theorem randomByteUnderTheMask : Obligations.RandomByteUnderTheMask := by
  refine ⟨encodedBy_of_plain ?row, fun s x nn => ?rnd⟩
  case row => simp [opcodeRowsPlain]
  case rnd =>
    have hvalue : (s.setReg x (randomByte s.draws &&& nn)).countDraw.advance.reg x = randomByte s.draws &&& nn := by
      simp
    refine ⟨_, rfl, hvalue, ?zero, ?ones, fun k hk => ?others, rfl, pcPlus_advance rfl, rfl⟩
    case zero =>
      rintro rfl
      exact hvalue.trans BitVec.and_zero
    case ones =>
      rintro rfl
      exact hvalue.trans BitVec.and_allOnes
    case others => simp [hk]

end

section
/-! PROOFS. The address register, glyphs, digits and loads (spec/43_address_and_memory.md R231 to R234, R236). -/

open Sys2Proof.Claim

namespace Sys2Proof.Machine

/-! ### What the meanings here leave alone -/

theorem onlyRegsIPc_refl (s : State) : OnlyRegsIPc s s := (onlyIPc_refl s).2

theorem onlyRegsIPc_with_v {s t : State} (h : OnlyRegsIPc s t) (v : Vector Byte 16) :
    OnlyRegsIPc s { t with v := v } := h

theorem onlyRegsIPc_setRegs {s t : State} (h : OnlyRegsIPc s t) (f : RegIdx → Byte) :
    OnlyRegsIPc s (t.setRegs f) := onlyRegsIPc_with_v h (Vector.ofFn f)

theorem onlyRegsIPc_setI {s t : State} (h : OnlyRegsIPc s t) (w : Word) : OnlyRegsIPc s (t.setI w) := h

theorem onlyRegsIPc_advance {s t : State} (h : OnlyRegsIPc s t) : OnlyRegsIPc s t.advance := h

/-! ### Setting `I` -/

theorem glyphAddr_toNat {base size : Nat} (hbase : base ≤ 0x200) (hsize : size ≤ 10) (a : Byte) :
    (glyphAddr base size a).toNat = base + size * a.toNat := by
  have ha := a.isLt
  have hmul : size * a.toNat ≤ 10 * 255 := Nat.mul_le_mul hsize (by omega)
  rw [glyphAddr, BitVec.toNat_ofNat, Nat.mod_eq_of_lt (by omega)]

/-- A meaning that sets `I` alone. -/
theorem answers_setI {i : Instr} {s : State} {w : Word} {value : Nat} (hexec : exec i s = .next (s.setI w).advance)
    (hw : w.toNat = value) : Answers i s fun t => t.i.toNat = value ∧ PcPlus 2 s t ∧ OnlyIPc s t :=
  ⟨_, hexec, hw, pcPlus_advance rfl, onlyIPc_advance (onlyIPc_setI (onlyIPc_refl s) w)⟩

/-! ### Memory after `LD B, Vx`, at every address (R61, R234) -/

theorem length_bcdDigits (a : Byte) : (bcdDigits a).length = 3 := rfl

theorem State.memRead_storedDigits (s : State) (a : Byte) {k : Nat} (h : k < 3) :
    (s.memWriteBytes (s.atI 0) (bcdDigits a)).memRead ((s.i.toNat + k) % 4096) = (bcdDigits a)[k] := by
  rw [State.memRead_wrap]
  exact Memory.read_writeBytes_inside (bcdDigits a) s.mem s.i.toNat k h (by rw [length_bcdDigits]; omega)

theorem State.memRead_outside_storedDigits (s : State) (b : Byte) {a : Nat} (ha : a < 4096)
    (h : ∀ k, k < 3 → a ≠ (s.i.toNat + k) % 4096) :
    (s.memWriteBytes (s.atI 0) (bcdDigits b)).memRead a = s.memRead a := by
  refine Memory.read_writeBytes_outside (bcdDigits b) s.mem s.i.toNat a fun k hk => ?_
  rw [wrapAddr, Nat.mod_eq_of_lt ha]
  exact h k hk

theorem toNat_ofNat_of_lt_256 {n : Nat} (h : n < 256) : (BitVec.ofNat 8 n).toNat = n := by
  rw [BitVec.toNat_ofNat, Nat.mod_eq_of_lt h]

end Sys2Proof.Machine

open Sys2Proof Sys2Proof.Machine

/-- Settles O29: `addIWith` register by register (`addIWith_reg_of_ne`, and of `VF` `addIWith_true_flag` and
`addIWith_false_flag`), for both values of the parameter. -/
theorem addToAddressRegister : Obligations.AddToAddressRegister := by
  refine ⟨encodedBy_of_rowEF ?row, fun s x => ⟨rfl, fun quirk => ⟨_, rfl, ?sum, ?flag, ?others, ?pc, ?frame⟩⟩⟩
  case row => simp [opcodeRowsEF]
  case sum =>
    rw [addIWith_i, addToI, BitVec.toNat_add, BitVec.toNat_setWidth_of_le (by decide)]
  case flag =>
    cases quirk with
    | true => exact (congrArg BitVec.toNat (addIWith_true_flag x s)).trans (toNat_flagByte_addressOverflow _ _)
    | false => exact addIWith_false_flag x s
  case others => exact fun k hk => addIWith_reg_of_ne hk quirk x s
  case pc => exact pcPlus_advance ((s.setI _).setRegs_pc _)
  case frame => exact onlyRegsIPc_advance (onlyRegsIPc_setRegs (onlyRegsIPc_setI (onlyRegsIPc_refl s) _) _)

/-- Settles O30: a legal base is at most 0x200, so that no glyph address passes 16 bits (`glyphAddr_toNat`). -/
theorem glyphAddresses : Obligations.GlyphAddresses := by
  obtain ⟨hsmall, hbig, -⟩ := fontBases_bounds
  refine ⟨encodedBy_of_rowEF ?_, encodedBy_of_rowEF ?_, fun s x => ⟨?ldF, ?ldHf⟩⟩
  case ldF => exact answers_setI rfl (glyphAddr_toNat (by omega) (by omega) _)
  case ldHf => exact answers_setI rfl (glyphAddr_toNat (by omega) (by omega) _)
  all_goals simp [opcodeRowsEF]

/-- Settles O33: the registers up to `Vx` are read from memory and the others from themselves, in one update. -/
theorem loadRegisters : Obligations.LoadRegisters := by
  refine ⟨encodedBy_of_rowEF ?row, fun s x => ⟨_, rfl, ?loaded, ?others, ?address, ?pc, ?frame⟩⟩
  case row => simp [opcodeRowsEF]
  case loaded =>
    intro k hk
    simp [hk, State.memRead_wrap, State.atI]
  case others =>
    intro k hk
    simp [hk.not_ge]
  case address => rw [State.advance_eq, State.setPc_i, State.toNat_i_stepI, State.setRegs_i]
  case pc => exact pcPlus_advance (by rw [State.stepI_eq, State.setI_pc, State.setRegs_pc])
  case frame => exact onlyRegsIPc_advance (onlyRegsIPc_setI (onlyRegsIPc_setRegs (onlyRegsIPc_refl s) _) _)

/-- Settles O31: the three digits written are read back where they lie (`State.memRead_storedDigits`), and no address
outside them is written. -/
theorem bcdStoresThreeDigits : Obligations.BcdStoresThreeDigits := by
  refine ⟨encodedBy_of_rowEF ?row, fun s x => ⟨_, rfl, ?hundreds, ?tens, ?units, ?others, rfl, pcPlus_advance rfl,
    ?frame⟩⟩
  case row => simp [opcodeRowsEF]
  case hundreds =>
    have h := s.memRead_storedDigits (s.reg x) (k := 0) (by omega)
    exact (congrArg BitVec.toNat h).trans (toNat_ofNat_of_lt_256 (by have := (s.reg x).isLt; omega))
  case tens =>
    have h := s.memRead_storedDigits (s.reg x) (k := 1) (by omega)
    exact (congrArg BitVec.toNat h).trans (toNat_ofNat_of_lt_256 (by omega))
  case units =>
    have h := s.memRead_storedDigits (s.reg x) (k := 2) (by omega)
    exact (congrArg BitVec.toNat h).trans (toNat_ofNat_of_lt_256 (by omega))
  case others =>
    intro a ha h0 h1 h2
    refine s.memRead_outside_storedDigits (s.reg x) ha fun k hk => ?_
    interval_cases k
    · exact h0
    · exact h1
    · exact h2
  case frame =>
    have hrefl : OnlyMemIPc s s := onlyMemIPc_of_onlyIPc (onlyIPc_refl s)
    exact onlyMemIPc_advance (onlyMemIPc_setMem hrefl _)

end

section
/-! PROOFS. The key skips and the key wait (spec/45_input_and_timers.md R300, R301, R303), and the mode switch
(spec/44_display.md R265, R266). -/

open Sys2Proof.Claim

namespace Sys2Proof.Machine

theorem State.keyHeld_iff_getElem (s : State) (k : Byte) :
    s.keyHeld k = true ↔ ∃ h : k.toNat < 16, s.keys[k.toNat] = true := by
  rw [State.keyHeld_iff, Vector.getElem?_eq_some_iff]

/-- Nothing but registers, the latch and the `PC` changed. -/
def OnlyRegsLatchPc (s t : State) : Prop :=
  t.i = s.i ∧ SameMem s t ∧ SameStack s t ∧ SameTimers s t ∧ SameDisplay s t ∧ SameCount s t ∧ SameHost s t

theorem onlyRegsLatchPc_of_onlyRegsPc {s t : State} (h : OnlyRegsPc s t) : OnlyRegsLatchPc s t := by
  obtain ⟨hi, hmem, hstack, htimers, hdisplay, -, hrest⟩ := h
  exact ⟨hi, hmem, hstack, htimers, hdisplay, hrest⟩

theorem onlyRegsLatchPc_setLatch {s t : State} (h : OnlyRegsLatchPc s t) (l : KeyLatch) :
    OnlyRegsLatchPc s (t.setLatch l) := h

theorem onlyRegsLatchPc_advance {s t : State} (h : OnlyRegsLatchPc s t) : OnlyRegsLatchPc s t.advance := h

theorem onlySetsMode_setMode_advance (m : DisplayMode) (s : State) : OnlySetsMode m s (s.setMode m).advance :=
  ⟨rfl, s.pixel_setMode m, pcPlus_advance rfl, s.reg_setMode m, rfl, s.memRead_setMode m, ⟨rfl, rfl⟩, ⟨rfl, rfl⟩,
    ⟨rfl, rfl⟩, rfl, rfl, rfl, rfl, rfl⟩

end Sys2Proof.Machine

open Sys2Proof Sys2Proof.Machine

/-- Settles O43: both are skips (`answers_skipIf`), on the key that `Vx` names where it names one. -/
theorem keySkipsTestTheHeldKey : Obligations.KeySkipsTestTheHeldKey := by
  refine ⟨encodedBy_of_rowEF ?_, encodedBy_of_rowEF ?_, fun s x => ⟨?skp, ?sknp⟩⟩
  case skp => exact answers_skipIf rfl (s.keyHeld_iff_getElem _)
  case sknp =>
    have hfree : (!s.keyHeld (s.reg x)) = true ↔
        ¬∃ h : (s.reg x).toNat < 16, s.keys[(s.reg x).toNat] = true := by
      rw [Bool.not_eq_true', ← Bool.not_eq_true, s.keyHeld_iff_getElem]
    exact answers_skipIf_not rfl hfree
  all_goals simp [opcodeRowsEF]

/-- Settles O44: the two branches of the wait; the one that takes the press writes `Vx` and the latch alone. -/
theorem keyWaitConsumesTheLatch : Obligations.KeyWaitConsumesTheLatch := by
  refine ⟨encodedBy_of_rowEF ?row, fun s x => ⟨fun h => ?press, fun h => exec_ldVxK_of_not_pending h x⟩⟩
  case row => simp [opcodeRowsEF]
  case press =>
    refine ⟨_, exec_ldVxK_of_pending h x, ⟨?value, fun k hk => ?others⟩, rfl, rfl, rfl, pcPlus_advance rfl, ?frame⟩
    case value =>
      rw [State.advance_eq, State.reg_setPc, State.reg_setLatch, State.reg_setReg, if_pos rfl]
      exact toNat_ofNat_of_lt_256 (s.latch.key.isLt.trans (by decide))
    case others => simp [hk]
    case frame =>
      have hreg := onlyRegsPc_setReg (onlyRegsPc_refl s) x (BitVec.ofNat 8 s.latch.key.val)
      exact onlyRegsLatchPc_advance (onlyRegsLatchPc_setLatch (onlyRegsLatchPc_of_onlyRegsPc hreg) _)

/-- Settles O39: both meanings are one update of the mode (`onlySetsMode_setMode_advance`). -/
theorem modeSwitchKeepsPixels : Obligations.ModeSwitchKeepsPixels := by
  refine ⟨encodedBy_of_row0 ?_, encodedBy_of_row0 ?_, fun s => ⟨?low, ?high⟩⟩
  case low => exact ⟨_, rfl, onlySetsMode_setMode_advance .standard s⟩
  case high => exact ⟨_, rfl, onlySetsMode_setMode_advance .extended s⟩
  all_goals simp [opcodeRows0]

end

section
/-! PROOFS. The canonical form of memory is unique, and a store is fetched by the next cycle (spec/20_memory.md
sections 1 and 4). -/

open Sys2Proof.Claim

namespace Sys2Proof.Machine

/-! ### The canonical form -/

theorem Memory.lookup_cons_self (c : Host.Cell) (m : Memory) : Memory.lookup (c :: m) c.1 = c.2 := if_pos rfl

theorem Memory.lookup_cons_of_ne {c : Host.Cell} {a : Nat} (h : a ≠ c.1) (m : Memory) :
    Memory.lookup (c :: m) a = m.lookup a := if_neg h

/-- An address below every entry reads as its reset contents. -/
theorem Memory.lookup_of_lt {m : Memory} {lo a : Nat} (hm : Memory.wfFrom lo m = true) (h : a < lo) :
    m.lookup a = resetByte a := by
  induction m generalizing lo with
  | nil => rfl
  | cons c m ih =>
    obtain ⟨hlo, -, -, hrest⟩ := Memory.wfFrom_cons.mp hm
    rw [Memory.lookup_cons_of_ne (by omega)]
    exact ih hrest (by omega)

/-- The first entry differs from what an address reads as that is below every entry of the other list. -/
theorem Memory.lookup_ne_of_head_lt {c : Host.Cell} {m n : Memory} {lo lo' : Nat}
    (hm : Memory.wfFrom lo (c :: m) = true) (hn : Memory.wfFrom lo' n = true) (h : c.1 < lo') :
    Memory.lookup (c :: m) c.1 ≠ n.lookup c.1 := by
  obtain ⟨-, -, hc, -⟩ := Memory.wfFrom_cons.mp hm
  rwa [Memory.lookup_cons_self, Memory.lookup_of_lt hn h]

/-- A list in the form is in it from its first address on. -/
theorem Memory.wfFrom_head {c : Host.Cell} {m : Memory} {lo : Nat} (hm : Memory.wfFrom lo (c :: m) = true) :
    Memory.wfFrom c.1 (c :: m) = true :=
  Memory.wfFrom_cons.mpr ⟨Nat.le_refl _, (Memory.wfFrom_cons.mp hm).2⟩

theorem Memory.eq_of_lookup_eq {m n : Memory} {lo : Nat} (hm : Memory.wfFrom lo m = true)
    (hn : Memory.wfFrom lo n = true) (h : ∀ a, lo ≤ a → a < 4096 → m.lookup a = n.lookup a) : m = n := by
  induction m generalizing n lo with
  | nil =>
    cases n with
    | nil => rfl
    | cons d n =>
      obtain ⟨hlo, hlt, -⟩ := Memory.wfFrom_cons.mp hn
      exact absurd (h d.1 hlo hlt).symm (Memory.lookup_ne_of_head_lt hn (n := []) (lo' := d.1 + 1) rfl (by omega))
  | cons c m ih =>
    obtain ⟨hlo, hlt, -, hm'⟩ := Memory.wfFrom_cons.mp hm
    cases n with
    | nil => exact absurd (h c.1 hlo hlt) (Memory.lookup_ne_of_head_lt hm (n := []) (lo' := c.1 + 1) rfl (by omega))
    | cons d n =>
      obtain ⟨hlo', hlt', -, hn'⟩ := Memory.wfFrom_cons.mp hn
      rcases Nat.lt_trichotomy c.1 d.1 with hcd | hcd | hcd
      · exact absurd (h c.1 hlo hlt) (Memory.lookup_ne_of_head_lt hm (Memory.wfFrom_head hn) hcd)
      · have hvalue := h c.1 hlo hlt
        rw [Memory.lookup_cons_self, hcd, Memory.lookup_cons_self] at hvalue
        obtain rfl : c = d := Prod.ext hcd hvalue
        refine congrArg (c :: ·) (ih hm' hn' fun a ha halt => ?_)
        have hrest := h a (by omega) halt
        rwa [Memory.lookup_cons_of_ne (by omega), Memory.lookup_cons_of_ne (by omega)] at hrest
      · exact absurd (h d.1 hlo' hlt').symm (Memory.lookup_ne_of_head_lt hn (Memory.wfFrom_head hm) hcd)

/-! ### The bytes after a store, at every address -/

theorem State.memRead_congr (s : State) {a b : Nat} (h : a % 4096 = b % 4096) : s.memRead a = s.memRead b := by
  rw [← s.memRead_wrap a, h, s.memRead_wrap]

theorem add_pastI (s : State) (a : Nat) : (s.i.toNat + pastI s a) % 4096 = a % 4096 := by
  simp only [pastI]
  omega

/-- The distance past `I` of an address that is stored to. -/
theorem pastI_eq_of_eq {s : State} {a k : Nat} (hk : k < 4096) (h : a % 4096 = (s.i.toNat + k) % 4096) :
    pastI s a = k := by
  simp only [pastI]
  omega

theorem State.memRead_after_store (s : State) (x : RegIdx) (a : Nat) :
    (s.memWriteBytes (s.atI 0) (s.regsUpTo x)).memRead a = byteAfterStore x s a := by
  unfold byteAfterStore
  split
  case isTrue h =>
    rw [← State.memRead_wrap, ← add_pastI s a]
    exact s.memRead_storedRegs (k := ⟨pastI s a, _⟩) h
  case isFalse h =>
    rw [← State.memRead_wrap, ← s.memRead_wrap a]
    refine s.memRead_outside_storedRegs (Nat.mod_lt _ (by decide)) fun k hk hak => h ?_
    rw [pastI_eq_of_eq (by omega) hak]
    exact hk

theorem State.memRead_digit (s : State) (b : Byte) {a k : Nat} (hk : k < 3) (h : pastI s a = k) :
    (s.memWriteBytes (s.atI 0) (bcdDigits b)).memRead a = (bcdDigits b)[k] := by
  rw [← s.memRead_storedDigits b hk, ← h, add_pastI, State.memRead_wrap]

theorem State.memRead_after_bcd (s : State) (x : RegIdx) (a : Nat) :
    (s.memWriteBytes (s.atI 0) (bcdDigits (s.reg x))).memRead a = byteAfterBcd x s a := by
  unfold byteAfterBcd
  split
  case isTrue h => exact s.memRead_digit (s.reg x) (by omega) h
  split
  case isTrue h => exact s.memRead_digit (s.reg x) (by omega) h
  split
  case isTrue h => exact s.memRead_digit (s.reg x) (by omega) h
  case isFalse h0 h1 h2 =>
    rw [← State.memRead_wrap, ← s.memRead_wrap a]
    refine s.memRead_outside_storedDigits (s.reg x) (Nat.mod_lt _ (by decide)) fun k hk hak => ?_
    have hpast := pastI_eq_of_eq (s := s) (by omega) hak
    omega

/-- The next cycle executes the two bytes after the instruction. -/
theorem cycle_of_memRead {s t : State} {byteAt : Nat → Byte} (hpc : t.pc = s.pc + 2)
    (hmem : ∀ a, t.memRead a = byteAt a) : cycle t =
      exec (decodeWord (wordOfBytes (byteAt (s.pc.toNat + 2)) (byteAt (s.pc.toNat + 3)))) t := by
  have hnext : t.pc.toNat = (s.pc.toNat + 2) % 4096 := by rw [hpc, pc_add_two]
  rw [cycle, State.fetchWord, hnext, ← hmem, ← hmem, t.memRead_wrap,
    t.memRead_congr (a := (s.pc.toNat + 2) % 4096 + 1) (b := s.pc.toNat + 3) (by omega)]

end Sys2Proof.Machine

open Sys2Proof Sys2Proof.Machine

/-- Settles O34: entry by entry (`Memory.eq_of_lookup_eq`); where the first addresses differ, the lower one reads otherwise
in the list that does not name it. -/
theorem canonicalMemoryIsUnique : Obligations.CanonicalMemoryIsUnique := by
  intro m n hm hn h
  refine Memory.eq_of_lookup_eq hm hn fun a _ ha => ?_
  have := h a ha
  rwa [Memory.read, Memory.read, wrapAddr, Nat.mod_eq_of_lt ha] at this

/-- Settles O35: what every address reads as after either store (`State.memRead_after_store`, `State.memRead_after_bcd`),
at the two bytes of the next fetch (`cycle_of_memRead`). -/
theorem storedBytesAreFetchedNext : Obligations.StoredBytesAreFetchedNext :=
  fun s x => ⟨⟨_, rfl, cycle_of_memRead rfl (s.memRead_after_store x)⟩,
    ⟨_, rfl, cycle_of_memRead rfl (s.memRead_after_bcd x)⟩⟩

end

section
/-! PROOFS. Scrolling and drawing, pixel by pixel (spec/44_display.md R260 to R271). -/

open Sys2Proof.Claim

namespace Sys2Proof.Machine

/-! ### Scrolls (R262 to R264) -/

theorem State.pixel_inExtended (s : State) (g : Framebuffer) (y x : Nat) :
    (s.inExtended g).pixel y x = if s.mode = .extended then g.pixel y x else s.pixel y x := by
  unfold State.inExtended
  cases s.mode
  · rfl
  · rfl

/-- A scroll, by what it makes of each pixel in `Extended` mode. -/
theorem answers_scroll {i : Instr} {s : State} {g : Framebuffer} {f : Nat → Nat → Bool}
    (hexec : exec i s = .next (s.setFb (s.inExtended g)).advance)
    (hg : s.mode = .extended → ∀ y x, y < 64 → x < 128 → g.pixel y x = f y x) : Answers i s fun t =>
      (∀ y x, y < 64 → x < 128 → t.pixel y x = (if s.mode = .extended then f y x else s.pixel y x)) ∧
        PcPlus 2 s t ∧ OnlyPixelsPc s t := by
  refine ⟨_, hexec, fun y x hy hx => ?_, pcPlus_advance rfl,
    onlyPixelsPc_advance (onlyPixelsPc_setFb (onlyPixelsPc_refl s) _)⟩
  rw [State.advance_eq, State.pixel_setPc, State.pixel_setFb, State.pixel_inExtended]
  split
  case isTrue hmode => exact hg hmode y x hy hx
  case isFalse => rfl

/-- No scroll writes outside the active rectangle, which holds in either mode. -/
theorem State.pixel_inExtended_of_not_inActive {s : State} {y x : Nat} (h : ¬s.inActive y x) (f : Nat → PixelRow) :
    (s.inExtended (s.fb.mapActive (modeWidth s.mode) (modeHeight s.mode) f)).pixel y x = s.pixel y x := by
  rw [State.pixel_inExtended, Framebuffer.pixel_mapActive (modeWidth_le _) (modeHeight_le _),
    if_neg (show ¬(y < modeHeight s.mode ∧ x < modeWidth s.mode) from h)]
  exact ite_self _

/-! ### Where a sprite's pixels lie (R268 to R270) -/

theorem spriteShape_eq (d : Dxy0Standard) (n : BitVec 4) (m : DisplayMode) : spriteShape d n m = rowsCols d n m := by
  unfold spriteShape rowsCols
  by_cases hn : n = 0
  · cases m <;> cases d <;> simp [hn]
  · exact (if_neg hn).trans (if_pos hn).symm

/-- A sprite has at most 16 rows, of one byte or of two. -/
theorem rowsCols_bounds (d : Dxy0Standard) (n : BitVec 4) (m : DisplayMode) :
    (rowsCols d n m).1 ≤ 16 ∧ ((rowsCols d n m).2 = 8 ∨ (rowsCols d n m).2 = 16) := by
  have hn := n.isLt
  unfold rowsCols
  split_ifs <;> dsimp only <;> omega

theorem getLsbD_eq_true_iff {w : Nat} (b : BitVec w) (k : Nat) : b.getLsbD k = true ↔ b.toNat / 2 ^ k % 2 = 1 := by
  rw [BitVec.getLsbD, Nat.testBit_eq_decide_div_mod_eq, decide_eq_true_iff]

theorem State.spriteBit_iff (s : State) {cols c : Nat} (r : Nat) (hcols : cols = 8 ∨ cols = 16) (hc : c < cols) :
    s.spriteBit cols r c = true ↔ spriteBitAt s cols r c := by
  unfold spriteBitAt
  rw [State.memRead_wrap, ← getLsbD_eq_true_iff]
  rcases hcols with rfl | rfl
  · have haddr : s.i.toNat + r * (8 / 8) + c / 8 = s.i.toNat + r := by omega
    have hbit : 7 - c % 8 = 7 - c := by omega
    rw [haddr, hbit]
    rfl
  · simp only [State.spriteBit, State.atI, if_true, BitVec.getLsbD_append]
    by_cases hc8 : c < 8
    · have haddr : s.i.toNat + r * (16 / 8) + c / 8 = s.i.toNat + 2 * r := by omega
      have hbit : 7 - c % 8 = 15 - c - 8 := by omega
      rw [if_neg (by omega), haddr, hbit]
    · have haddr : s.i.toNat + r * (16 / 8) + c / 8 = s.i.toNat + (2 * r + 1) := by omega
      have hbit : 7 - c % 8 = 15 - c := by omega
      rw [if_pos (by omega), haddr, hbit]

theorem placePixel_eq_some_iff (e : DrawEdge) (m : DisplayMode) (x0 y0 c r px py : Nat) :
    placePixel e (modeWidth m) (modeHeight m) x0 y0 c r = some (px, py) ↔ placedAt e m x0 y0 r c py px := by
  cases e with
  | wrap => simp [placePixel, placedAt, eq_comm]
  | clip =>
    simp only [placePixel, placedAt]
    split <;> simp <;> omega

section
variable {e : DrawEdge} {m : DisplayMode} {x0 y0 r c r' c' py px : Nat}

theorem placedAt_inActive (h : placedAt e m x0 y0 r c py px) : py < modeHeight m ∧ px < modeWidth m := by
  cases e with
  | wrap =>
    obtain ⟨rfl, rfl⟩ := h
    have hw := modeWidth_pos m
    have hh := modeHeight_pos m
    exact ⟨Nat.mod_lt _ (by omega), Nat.mod_lt _ (by omega)⟩
  | clip =>
    obtain ⟨-, -, hx, hy⟩ := h
    exact ⟨hy, hx⟩

/-- A sprite is no larger than the active region, so that no two of its bits share a pixel. -/
theorem placedAt_inj (hr : r < 16) (hr' : r' < 16) (hc : c < 16) (hc' : c' < 16)
    (h : placedAt e m x0 y0 r c py px) (h' : placedAt e m x0 y0 r' c' py px) : r = r' ∧ c = c' := by
  cases e with
  | wrap =>
    obtain ⟨hx, hy⟩ := h
    obtain ⟨hx', hy'⟩ := h'
    cases m <;> simp only [modeWidth, modeHeight] at * <;> omega
  | clip =>
    obtain ⟨hx, hy, -⟩ := h
    obtain ⟨hx', hy', -⟩ := h'
    omega

end

/-! ### The pixels a draw toggles -/

theorem onlyRegsPixelsPc_setReg {s t : State} (h : OnlyRegsPixelsPc s t) (x : RegIdx) (r : Byte) :
    OnlyRegsPixelsPc s (t.setReg x r) := h

theorem onlyRegsPixelsPc_advance {s t : State} (h : OnlyRegsPixelsPc s t) : OnlyRegsPixelsPc s t.advance := h

/-- The pixel under the bit (r, c) of a sprite, where the bit is 1 and visible. -/
def State.spritePixel (e : DrawEdge) (cols x0 y0 : Nat) (s : State) (r c : Nat) : Option (Nat × Nat) :=
  if s.spriteBit cols r c then placePixel e (modeWidth s.mode) (modeHeight s.mode) x0 y0 c r else none

section
variable (e : DrawEdge) (x0 y0 : Nat) (s : State)

theorem State.spritePixels_eq (rows cols : Nat) : s.spritePixels e rows cols x0 y0 =
    (List.range rows).flatMap fun r => (List.range cols).filterMap (s.spritePixel e cols x0 y0 r) := rfl

theorem State.spritePixel_eq_some_iff {cols r c px py : Nat} (hcols : cols = 8 ∨ cols = 16) (hc : c < cols) :
    s.spritePixel e cols x0 y0 r c = some (px, py) ↔
      spriteBitAt s cols r c ∧ placedAt e s.mode x0 y0 r c py px := by
  rw [State.spritePixel, Option.ite_none_right_eq_some, s.spriteBit_iff r hcols hc, placePixel_eq_some_iff]

theorem State.spritePixel_inj {cols r c r' c' : Nat} {p : Nat × Nat} (hcols : cols = 8 ∨ cols = 16)
    (hr : r < 16) (hr' : r' < 16) (hc : c < cols) (hc' : c' < cols)
    (h : s.spritePixel e cols x0 y0 r c = some p) (h' : s.spritePixel e cols x0 y0 r' c' = some p) :
    r = r' ∧ c = c' := by
  obtain ⟨px, py⟩ := p
  rw [s.spritePixel_eq_some_iff e x0 y0 hcols hc] at h
  rw [s.spritePixel_eq_some_iff e x0 y0 hcols hc'] at h'
  exact placedAt_inj hr hr' (by omega) (by omega) h.2 h'.2

theorem State.mem_spritePixels_iff {rows cols px py : Nat} (hcols : cols = 8 ∨ cols = 16) :
    (px, py) ∈ s.spritePixels e rows cols x0 y0 ↔
      ∃ r c, r < rows ∧ c < cols ∧ spriteBitAt s cols r c ∧ placedAt e s.mode x0 y0 r c py px := by
  simp only [State.spritePixels_eq, List.mem_flatMap, List.mem_filterMap, List.mem_range]
  constructor
  · rintro ⟨r, hr, c, hc, h⟩
    exact ⟨r, c, hr, hc, (s.spritePixel_eq_some_iff e x0 y0 hcols hc).mp h⟩
  · rintro ⟨r, c, hr, hc, h⟩
    exact ⟨r, hr, c, hc, (s.spritePixel_eq_some_iff e x0 y0 hcols hc).mpr h⟩

/-- No two bits of a sprite share a pixel: neither two bits of a row nor bits of two rows. -/
theorem State.nodup_spritePixels {rows cols : Nat} (hrows : rows ≤ 16) (hcols : cols = 8 ∨ cols = 16) :
    (s.spritePixels e rows cols x0 y0).Nodup := by
  rw [State.spritePixels_eq, List.nodup_flatMap]
  constructor
  · intro r hr
    have hr16 := (List.mem_range.mp hr).trans_le hrows
    refine List.pairwise_filterMap.mpr (List.nodup_range.imp_of_mem fun hc hc' hne p hp p' hp' hpp => hne ?_)
    subst hpp
    exact (s.spritePixel_inj e x0 y0 hcols hr16 hr16 (List.mem_range.mp hc) (List.mem_range.mp hc') hp hp').2
  · refine List.nodup_range.imp_of_mem fun hr hr' hne p hp hp' => hne ?_
    obtain ⟨c, hc, h⟩ := List.mem_filterMap.mp hp
    obtain ⟨c', hc', h'⟩ := List.mem_filterMap.mp hp'
    exact (s.spritePixel_inj e x0 y0 hcols ((List.mem_range.mp hr).trans_le hrows)
      ((List.mem_range.mp hr').trans_le hrows) (List.mem_range.mp hc) (List.mem_range.mp hc') h h').1

end

section
variable (e : DrawEdge) (d : Dxy0Standard) (x y : RegIdx) (n : BitVec 4) (s : State)

theorem State.mem_drawnPixels_iff (px py : Nat) :
    (px, py) ∈ s.drawnPixels e d x y n ↔ Drawn e d x y n s py px := by
  rw [State.drawnPixels, spriteShape_eq, s.mem_spritePixels_iff _ _ _ (rowsCols_bounds d n s.mode).2]
  rfl

variable {e d x y n s}

theorem inActive_of_drawn {py px : Nat} (h : Drawn e d x y n s py px) : s.inActive py px := by
  obtain ⟨r, c, -, -, -, hplaced⟩ := h
  exact placedAt_inActive hplaced

variable (e d x y n s)

/-- The draw loop over the sprite's pixels: distinct and in the storage, as `Framebuffer.drawPixels_spec` asks. -/
theorem State.drawPixels_drawnPixels :
    (∀ py px, (s.fb.drawPixels (s.drawnPixels e d x y n)).1.pixel py px =
      (s.pixel py px ^^ decide ((px, py) ∈ s.drawnPixels e d x y n))) ∧
    ((s.fb.drawPixels (s.drawnPixels e d x y n)).2 = true ↔
      ∃ p ∈ s.drawnPixels e d x y n, s.pixel p.2 p.1 = true) := by
  refine Framebuffer.drawPixels_spec _ s.fb ?distinct ?bounds
  case distinct =>
    obtain ⟨hrows, hcols⟩ := rowsCols_bounds d n s.mode
    rw [State.drawnPixels, spriteShape_eq]
    exact s.nodup_spritePixels _ _ _ hrows hcols
  case bounds =>
    rintro ⟨px, py⟩ hp
    obtain ⟨hy, hx⟩ := inActive_of_drawn ((s.mem_drawnPixels_iff e d x y n px py).mp hp)
    exact ⟨hy.trans_le (modeHeight_le s.mode), hx.trans_le (modeWidth_le s.mode)⟩

theorem drwWith_pixel_of_drawn {py px : Nat} (h : Drawn e d x y n s py px) :
    (drwWith e d x y n s).pixel py px = !s.pixel py px := by
  have hmem := (s.mem_drawnPixels_iff e d x y n px py).mpr h
  rw [drwWith_eq, State.advance_eq, State.pixel_setPc, State.setFlag_eq, State.pixel_setReg, State.pixel_setFb,
    (s.drawPixels_drawnPixels e d x y n).1, decide_eq_true hmem, Bool.xor_true]

theorem drwWith_pixel_of_not_drawn {py px : Nat} (h : ¬Drawn e d x y n s py px) :
    (drwWith e d x y n s).pixel py px = s.pixel py px := by
  have hmem := mt (s.mem_drawnPixels_iff e d x y n px py).mp h
  rw [drwWith_eq, State.advance_eq, State.pixel_setPc, State.setFlag_eq, State.pixel_setReg, State.pixel_setFb,
    (s.drawPixels_drawnPixels e d x y n).1, decide_eq_false hmem, Bool.xor_false]

theorem drwWith_collides_iff : (s.fb.drawPixels (s.drawnPixels e d x y n)).2 = true ↔
    ∃ py px, Drawn e d x y n s py px ∧ s.pixel py px = true := by
  rw [(s.drawPixels_drawnPixels e d x y n).2]
  constructor
  · rintro ⟨⟨px, py⟩, hp, hset⟩
    exact ⟨py, px, (s.mem_drawnPixels_iff e d x y n px py).mp hp, hset⟩
  · rintro ⟨py, px, hdrawn, hset⟩
    exact ⟨(px, py), (s.mem_drawnPixels_iff e d x y n px py).mpr hdrawn, hset⟩

theorem drwWith_flag_of_collision (h : ∃ py px, Drawn e d x y n s py px ∧ s.pixel py px = true) :
    (drwWith e d x y n s).reg 15 = 1 := by
  rw [drwWith_flag, (drwWith_collides_iff e d x y n s).mpr h]
  rfl

theorem drwWith_flag_of_no_collision (h : ¬∃ py px, Drawn e d x y n s py px ∧ s.pixel py px = true) :
    (drwWith e d x y n s).reg 15 = 0 := by
  rw [drwWith_flag, Bool.eq_false_iff.mpr (mt (drwWith_collides_iff e d x y n s).mp h)]
  rfl

theorem onlyRegsPixelsPc_drwWith : OnlyRegsPixelsPc s (drwWith e d x y n s) :=
  onlyRegsPixelsPc_advance (onlyRegsPixelsPc_setReg (onlyPixelsPc_setFb (onlyPixelsPc_refl s) _).2 vF _)

/-- Where a sprite lies depends on the mode, `I`, memory and the two coordinates. -/
theorem drawn_congr {s t : State} (hmode : t.mode = s.mode) (hi : t.i = s.i) (hmem : SameMem s t)
    (hx : t.reg x = s.reg x) (hy : t.reg y = s.reg y) (py px : Nat) :
    Drawn e d x y n t py px ↔ Drawn e d x y n s py px := by
  simp only [Drawn, spriteBitAt, hmode, hi, hmem _, hx, hy]

end

end Sys2Proof.Machine

open Sys2Proof Sys2Proof.Machine

/-- Settles O37: the scroll of the whole storage, pixel by pixel (`Framebuffer.pixel_scrollDown`), where the mode is
`Extended`. -/
theorem scrollDownMovesRows : Obligations.ScrollDownMovesRows := by
  refine ⟨encodedBy_of_row0 ?row, fun s n => answers_scroll rfl fun hmode y x hy hx => ?pixel⟩
  case row => simp [opcodeRows0]
  case pixel =>
    rw [hmode, Framebuffer.pixel_scrollDown (by decide) (by decide), if_pos ⟨hy, hx⟩]
    rfl

/-- Settles O38: the scrolls by 4 columns, pixel by pixel, where the mode is `Extended`. -/
theorem horizontalScrollsMoveColumns : Obligations.HorizontalScrollsMoveColumns := by
  refine ⟨encodedBy_of_row0 ?_, encodedBy_of_row0 ?_, fun s => ⟨answers_scroll rfl fun hmode y x hy hx => ?right,
    answers_scroll rfl fun hmode y x hy hx => ?left⟩⟩
  case right =>
    rw [hmode, Framebuffer.pixel_scrollRight (by decide) (by decide), if_pos ⟨hy, hx⟩]
    rfl
  case left =>
    rw [hmode, Framebuffer.pixel_scrollLeft (by decide) (by decide), if_pos ⟨hy, hx⟩]
    rfl
  all_goals simp [opcodeRows0]

/-- Settles O40: the sprite's visible 1 bits lie on distinct pixels of the storage (`State.nodup_spritePixels`), so that
the draw loop toggles each of them once and collides where one was set (`Framebuffer.drawPixels_spec`). -/
theorem drawTogglesTheSpriteAndReportsCollision : Obligations.DrawTogglesTheSpriteAndReportsCollision := by
  refine ⟨encodedBy_of_plain ?row, fun s x y n => ⟨rfl, fun e d => ⟨_, rfl, fun py px => ?pixels,
    drwWith_flag_of_collision e d x y n s, drwWith_flag_of_no_collision e d x y n s,
    fun k hk => drwWith_reg_of_ne e d x y n s hk, pcPlus_advance rfl, onlyRegsPixelsPc_drwWith e d x y n s⟩⟩⟩
  case row => simp [opcodeRowsPlain]
  case pixels =>
    refine ⟨fun hsame hdrawn => ?_, drwWith_pixel_of_not_drawn e d x y n s⟩
    rw [drwWith_pixel_of_drawn e d x y n s hdrawn] at hsame
    exact Bool.not_ne_self _ hsame

/-- Settles O41: the first draw leaves everything that places the sprite (`drawn_congr`), so that the second toggles the
same pixels back, and meets a set one where the first set it. -/
theorem drawingTwiceRestoresTheScreen : Obligations.DrawingTwiceRestoresTheScreen := by
  intro s x y n e d hx hy
  have hdrawn : ∀ py px, Drawn e d x y n (drwWith e d x y n s) py px ↔ Drawn e d x y n s py px :=
    drawn_congr e d x y n (drwWith_mode e d x y n s) (drwWith_i e d x y n s) (drwWith_memRead e d x y n s)
      (drwWith_reg_of_ne e d x y n s hx) (drwWith_reg_of_ne e d x y n s hy)
  have hcollides : (∃ py px, Drawn e d x y n (drwWith e d x y n s) py px ∧
      (drwWith e d x y n s).pixel py px = true) ↔ ∃ py px, Drawn e d x y n s py px ∧ s.pixel py px = false := by
    refine exists_congr fun py => exists_congr fun px => ?_
    rw [hdrawn]
    refine and_congr_right fun h => ?_
    rw [drwWith_pixel_of_drawn e d x y n s h, Bool.not_eq_true']
  refine ⟨_, _, rfl, rfl, fun py px => ?pixels, fun h => ?collision, fun h => ?none⟩
  case pixels =>
    by_cases h : Drawn e d x y n s py px
    · rw [drwWith_pixel_of_drawn _ _ _ _ _ _ ((hdrawn py px).mpr h), drwWith_pixel_of_drawn _ _ _ _ _ _ h,
        Bool.not_not]
    · rw [drwWith_pixel_of_not_drawn _ _ _ _ _ _ (mt (hdrawn py px).mp h),
        drwWith_pixel_of_not_drawn _ _ _ _ _ _ h]
  case collision => exact drwWith_flag_of_collision _ _ _ _ _ _ (hcollides.mpr h)
  case none => exact drwWith_flag_of_no_collision _ _ _ _ _ _ (mt hcollides.mp h)

namespace Sys2Proof.Machine

/-! ### Which pixels an instruction changes (R32, R260) -/

/-- What R32 and R260 say of the pixels before and after an instruction. -/
def ChangesActivePixels (i : Instr) (s t : State) : Prop :=
  (∀ y x, ¬s.inActive y x → t.pixel y x = s.pixel y x) ∧
    ((∀ y x, t.pixel y x = s.pixel y x) ∨ i = .cls ∨ (∃ n, i = .scd n) ∨ i = .scr ∨ i = .scl ∨
      ∃ x y n, i = .drw x y n)

theorem changesActivePixels_of_same {i : Instr} {s t : State} (h : ∀ y x, t.pixel y x = s.pixel y x) :
    ChangesActivePixels i s t := ⟨fun y x _ => h y x, .inl h⟩

theorem pixel_scrolled_of_not_inActive {s : State} {y x : Nat} (h : ¬s.inActive y x) (f : Nat → PixelRow) :
    (s.setFb (s.inExtended (s.fb.mapActive (modeWidth s.mode) (modeHeight s.mode) f))).advance.pixel y x =
      s.pixel y x := by
  rw [State.advance_eq, State.pixel_setPc, State.pixel_setFb, State.pixel_inExtended_of_not_inActive h]

end Sys2Proof.Machine

/-- Settles O42: the scrolls, `CLS` and `DRW` change pixels of the active region alone, and every other meaning keeps
the framebuffer (`changesActivePixels_of_same`). -/
theorem onlyActivePixelsChange : Obligations.OnlyActivePixelsChange := by
  intro i s
  change Answers i s (ChangesActivePixels i s)
  cases i
  case cls => exact ⟨_, exec_cls s, fun y x h => State.pixel_clearedFb_of_not_inActive h, .inr (.inl rfl)⟩
  case scd n =>
    exact ⟨_, rfl, fun y x h => pixel_scrolled_of_not_inActive h _, .inr (.inr (.inl ⟨n, rfl⟩))⟩
  case scr =>
    exact ⟨_, rfl, fun y x h => pixel_scrolled_of_not_inActive h _, .inr (.inr (.inr (.inl rfl)))⟩
  case scl =>
    exact ⟨_, rfl, fun y x h => pixel_scrolled_of_not_inActive h _, .inr (.inr (.inr (.inr (.inl rfl))))⟩
  case drw x y n =>
    exact ⟨_, rfl, fun py px h => drwWith_pixel_of_not_drawn _ _ x y n s fun hdrawn => h (inActive_of_drawn hdrawn),
      .inr (.inr (.inr (.inr (.inr ⟨x, y, n, rfl⟩))))⟩
  case ret =>
    exact answers_ret (fun _ => changesActivePixels_of_same fun _ _ => rfl)
      (fun _ => changesActivePixels_of_same fun _ _ => rfl)
  case call nnn =>
    exact answers_call (fun _ => changesActivePixels_of_same fun y x => s.pixel_push s.pc y x)
      (fun _ => changesActivePixels_of_same fun _ _ => rfl)
  case ldVxK x =>
    exact answers_ldVxK (fun _ => changesActivePixels_of_same fun _ _ => by simp)
      (fun _ => changesActivePixels_of_same fun _ _ => rfl)
  all_goals exact ⟨_, rfl, changesActivePixels_of_same fun _ _ => by simp⟩

end
